-- ==== Sys2Proof/Word.lean ====
section
/-! DEFINITION. The words of the BPS: the 16-bit command and response word (R70, R76), the 11-bit operand (R6),
the byte (R120), and the one way a run of bits is read as a number (R13). -/

namespace Sys2Proof

/-- A command word `cmd[15:0]` or a response value `rsp_data[15:0]` (R41, R42). -/
abbrev Word := BitVec 16

/-- A byte; bit 7 is its most significant bit (R12). -/
abbrev Byte := BitVec 8

/-- An 11-bit operand: a word index, an entropy byte index or a checksum chunk index (R6, R71). -/
abbrev Opnd := BitVec 11

end Sys2Proof
end

