-- ==== Sys2Proof/Syntax.lean ====
section
/-! DEFINITION. The commands of the BPS (R72), one constructor per row of the opcode table, and the source form of a
command as an assembler reads it (R80), with the pseudo-instructions that expand to commands (R81). -/

namespace Sys2Proof

/-- What `RDINFO` reads (R165); the two bits of its operand field in the order 0, 1, 2, 3. -/
inductive InfoSel where
  | wordCount   -- 0: WCOUNT
  | totalBits   -- 1: 11 * WCOUNT
  | keyBits     -- 2: KEYBITS
  | checkSumBits -- 3: CSBITS
deriving DecidableEq, Repr

/-- A command (R72). Operands have exactly the width of their fields (R71), so every term is a legal command. -/
inductive Instr where
  | nop
  | clear
  | push (idx : Opnd)
  | split
  | verify
  | rdstat
  | rdinfo (sel : InfoSel)
  | rdbyte (k : Opnd)
  | rdcs (j : Opnd)
deriving DecidableEq, Repr

/-- The mnemonics of the opcode map (R72). -/
inductive Mnemonic where
  | nop | clear | push | split | verify | rdstat | rdinfo | rdbyte | rdcs
deriving DecidableEq, Repr

/-- The operand forms of R71. -/
inductive OperandForm where
  | z | idx | k | j | sel
deriving DecidableEq, Repr

/-- A command as it is written: a mnemonic and at most one numeric operand (R15, R80). -/
structure SourceCommand where
  mnemonic : Mnemonic
  operand  : Option Nat
deriving DecidableEq, Repr

/-- The pseudo-instructions of fixed length, with their operands as they are written (R81). `WAITV` is a host loop, not a
command sequence; it is `Sys2Proof.Machine.waitVerdict`. -/
inductive Pseudo where
  | words (indices : List Nat)
  | decode (indices : List Nat)
  | rdent (length : Nat)
deriving DecidableEq, Repr

end Sys2Proof
end

