-- ==== Sys2Proof/WellFormed.lean ====
section
/-! DEFINITION. When a written command is well formed (R71, R80): form Z takes no operand, the others take exactly one,
in the range of its field. A term of `Instr` needs no check: its operands have their fields' widths. -/

namespace Sys2Proof

/-- The operand form of each mnemonic (R71, R72). -/
def Mnemonic.form : Mnemonic → OperandForm
  | .nop => .z
  | .clear => .z
  | .push => .idx
  | .split => .z
  | .verify => .z
  | .rdstat => .z
  | .rdinfo => .sel
  | .rdbyte => .k
  | .rdcs => .j

/-- How many operand values a form admits, from 0 up; none for the form without operand (R71, R80). -/
def OperandForm.bound : OperandForm → Option Nat
  | .z => none
  | .idx => some 2048
  | .k => some 2048
  | .j => some 2048
  | .sel => some 4

/-- Why an assembler refuses a written command (R80). -/
inductive SourceError where
  | operandMissing
  | operandNotAllowed
  | operandOutOfRange
deriving DecidableEq, Repr

/-- The check of R80: "An assembler refuses an out-of-range operand; it never truncates one." -/
def SourceCommand.check (c : SourceCommand) : Option SourceError :=
  match c.mnemonic.form.bound, c.operand with
  | none, none => none
  | none, some _ => some .operandNotAllowed
  | some _, none => some .operandMissing
  | some b, some n => if n < b then none else some .operandOutOfRange

/-- A written command is well formed when the check finds nothing. -/
def SourceCommand.wf (c : SourceCommand) : Bool := c.check == none

end Sys2Proof
end

