-- ==== Sys2Proof/Decode.lean ====
section
/-! DEFINITION. Decoding a command word (R73, total over all 65536 words), the encoder beside it (R70, R80), the opcode
map as data (R72), and the assembler's elaboration of a written command. -/

namespace Sys2Proof

/-- Why a word is ILLEGAL (R74). The response is the same for all three; the names serve the reader (log entry 19). -/
inductive IllegalWord where
  | reservedOpcode   -- opcodes 0x09 to 0x1F
  | operandNotZero   -- form Z with OPND != 0
  | mbzNotZero       -- RDINFO with cmd[10:2] != 0
deriving DecidableEq, Repr

/-- What a word decodes to: a command, or ILLEGAL (R73, R74). -/
inductive Decoded where
  | command (i : Instr)
  | illegal (why : IllegalWord)
deriving DecidableEq, Repr

/-- `OP = cmd[15:11]` (R70). -/
def opField (w : Word) : BitVec 5 := w.extractLsb' 11 5

/-- `OPND = cmd[10:0]` (R70). -/
def opndField (w : Word) : Opnd := w.extractLsb' 0 11

/-- `sel = cmd[1:0]` of the operand field (R71). -/
def selField (o : Opnd) : BitVec 2 := o.extractLsb' 0 2

/-- `cmd[10:2]` of the operand field, which RDINFO wants 0 (R71). -/
def mbzField (o : Opnd) : BitVec 9 := o.extractLsb' 2 9

/-- The two selector bits as the four quantities of R165. -/
def InfoSel.ofBits (b : BitVec 2) : InfoSel :=
  if b = 0 then .wordCount else if b = 1 then .totalBits else if b = 2 then .keyBits else .checkSumBits

/-- The two selector bits of each quantity (R165). -/
def InfoSel.toBits : InfoSel → BitVec 2
  | .wordCount => 0
  | .totalBits => 1
  | .keyBits => 2
  | .checkSumBits => 3

/-- Form Z: the operand field must be 0 (R71). -/
def formZ (i : Instr) (o : Opnd) : Decoded :=
  if o = 0 then .command i else .illegal .operandNotZero

/-- Form SEL: bits 10:2 of the word must be 0 (R71). -/
def formSel (o : Opnd) : Decoded :=
  if mbzField o = 0 then .command (.rdinfo (InfoSel.ofBits (selField o))) else .illegal .mbzNotZero

/-- R73, opcode by opcode. Decoding reads no state. -/
def decode (w : Word) : Decoded :=
  let o := opndField w
  match (opField w).toNat with
  | 0x00 => formZ .nop o
  | 0x01 => formZ .clear o
  | 0x02 => .command (.push o)
  | 0x03 => formZ .split o
  | 0x04 => formZ .verify o
  | 0x05 => formZ .rdstat o
  | 0x06 => formSel o
  | 0x07 => .command (.rdbyte o)
  | 0x08 => .command (.rdcs o)
  | _ => .illegal .reservedOpcode

/-- The command of a decoded word, none for an ILLEGAL one. -/
def Decoded.toOption : Decoded → Option Instr
  | .command i => some i
  | .illegal _ => none

/-- The mnemonic of a command. -/
def Instr.mnemonic : Instr → Mnemonic
  | .nop => .nop
  | .clear => .clear
  | .push _ => .push
  | .split => .split
  | .verify => .verify
  | .rdstat => .rdstat
  | .rdinfo _ => .rdinfo
  | .rdbyte _ => .rdbyte
  | .rdcs _ => .rdcs

/-- The opcode of each mnemonic (R72). -/
def Mnemonic.opcode : Mnemonic → BitVec 5
  | .nop => 0x00
  | .clear => 0x01
  | .push => 0x02
  | .split => 0x03
  | .verify => 0x04
  | .rdstat => 0x05
  | .rdinfo => 0x06
  | .rdbyte => 0x07
  | .rdcs => 0x08

/-- The operand field of a command (R71): `zext` of its operand, 0 for form Z. -/
def Instr.operandField : Instr → Opnd
  | .nop => 0
  | .clear => 0
  | .push idx => idx
  | .split => 0
  | .verify => 0
  | .rdstat => 0
  | .rdinfo sel => sel.toBits.setWidth 11
  | .rdbyte k => k
  | .rdcs j => j

/-- The word of a command: its opcode above its operand field (R70). -/
def encode (i : Instr) : Word := i.mnemonic.opcode ++ i.operandField

/-- A row of the opcode map: the word with its operand field 0, and the bits a decoder compares (R72). -/
structure OpcodeRow where
  mnemonic : Mnemonic
  matchWord : Word
  mask : Word
deriving DecidableEq, Repr

/-- The opcode map of R72, in its order. -/
def opcodeMap : List OpcodeRow :=
  [ ⟨.nop,    0x0000, 0xFFFF⟩,
    ⟨.clear,  0x0800, 0xFFFF⟩,
    ⟨.push,   0x1000, 0xF800⟩,
    ⟨.split,  0x1800, 0xFFFF⟩,
    ⟨.verify, 0x2000, 0xFFFF⟩,
    ⟨.rdstat, 0x2800, 0xFFFF⟩,
    ⟨.rdinfo, 0x3000, 0xFFFC⟩,
    ⟨.rdbyte, 0x3800, 0xF800⟩,
    ⟨.rdcs,   0x4000, 0xF800⟩ ]

/-- "A word `w` spells a legal command exactly when `(w & mask) = match` for one row" (R72). -/
def OpcodeRow.spells (r : OpcodeRow) (w : Word) : Bool := (w &&& r.mask) == r.matchWord

/-- The match word of a command's row (R72, R80). -/
def Mnemonic.matchWord (m : Mnemonic) : Word := m.opcode ++ (0 : Opnd)

/-- The command a written one stands for; none where R80 refuses it. -/
def SourceCommand.elaborate (c : SourceCommand) : Option Instr :=
  if c.wf then
    match c.mnemonic, c.operand with
    | .nop, _ => some .nop
    | .clear, _ => some .clear
    | .push, some n => some (.push (BitVec.ofNat 11 n))
    | .split, _ => some .split
    | .verify, _ => some .verify
    | .rdstat, _ => some .rdstat
    | .rdinfo, some n => some (.rdinfo (InfoSel.ofBits (BitVec.ofNat 2 n)))
    | .rdbyte, some n => some (.rdbyte (BitVec.ofNat 11 n))
    | .rdcs, some n => some (.rdcs (BitVec.ofNat 11 n))
    | _, none => none
  else none

/-- The word an assembler writes for a written command (R80). -/
def assemble (c : SourceCommand) : Option Word := c.elaborate.map encode

/-- The written commands of `WORDS` (R81). -/
def pushSources (is : List Nat) : List SourceCommand := is.map fun n => ⟨.push, some n⟩

/-- The written commands a fixed-length pseudo-instruction expands to (R81). -/
def Pseudo.expand : Pseudo → List SourceCommand
  | .words is => pushSources is
  | .decode is => ⟨.clear, none⟩ :: (pushSources is ++ [⟨.split, none⟩, ⟨.verify, none⟩])
  | .rdent n => (List.range n).map fun k => ⟨.rdbyte, some k⟩

/-- The commands of several written ones; none where R80 refuses one of them. -/
def elaborateAll : List SourceCommand → Option (List Instr)
  | [] => some []
  | c :: cs => c.elaborate.bind fun i => (elaborateAll cs).map fun is => i :: is

/-- The commands of a pseudo-instruction; none where its expansion has an operand out of range, which R80 refuses and
never truncates (an index past 2047, or RDENT of more than 2048 bytes; log entry 13). -/
def Pseudo.elaborate (p : Pseudo) : Option (List Instr) := elaborateAll p.expand

/-- The command word of a number whose bits the opcode table numbers from 0: one 16-bit word (R75). -/
def tableWord (nbits w : Nat) : Word := BitVec.ofNat 16 (w % 2 ^ nbits)

/-- The command the decoder reads from a word of the opcode table; none where it refuses. -/
def decodeTableWord (nbits w : Nat) : Option Instr := (decode (tableWord nbits w)).toOption

end Sys2Proof
end

