-- ==== Sys2Proof/Config.lean ====
section
/-! DEFINITION. What an implementation fixes (`MAX_WORDS`, R7) and what the spec leaves open (the digest function
`H`, R8; the answer of `Verify` where R146 gives none). -/

namespace Sys2Proof

/-- The 32 bytes a digest function returns, `h[0] .. h[31]` (R8, R146). -/
abbrev Digest := Vector Byte 32

/-- `MAX_WORDS` of this hardware (R7). The state carries the parameter (log entry 1); this is its value at reset. -/
def Config.maxWords : Nat := 24

/-- The largest legal `MAX_WORDS` (R7). -/
def Config.maxWordsLimit : Nat := 768

/-- `H`, the configuration function that stands for SHA-256 (R8): a total function without a body, so nothing can be
proved of it but that its result depends on its input alone (log entry 2). -/
opaque Config.H : List Byte → Digest

/-- DESIGN CHOICE, a free value (log entry 3): the stub's answer to more than 256 checksum bits, for which R146 states
none. No request of the BPS has so many. -/
opaque Config.verifyBeyondDigest : List Byte → List Bool → Bool

/-- DESIGN CHOICE, a free value (log entry 10): what a buffer position past the end of `BUF` would read. No such position
exists (R55) and no reachable state reads one. -/
opaque Config.absentBit : Nat → Bool

end Sys2Proof
end

