-- ==== Sys2Proof/Machine/State.lean ====
section
/-! DEFINITION. The state of the BPS and of what is connected to it (10_state.md), as plain data, and the reset state
(R210). -/

namespace Sys2Proof.Machine

open Sys2Proof

/-- `ST`, the session state (R25); values 4, 5 and 6 are never held, so the type omits them (R25). -/
inductive Session where
  | collect   -- 0: accepting word indices
  | split     -- 1: split done and valid
  | vwait     -- 2: a verification request is outstanding
  | done      -- 3: the verdict is recorded
  | error     -- 7: a fatal error ended the session
deriving DecidableEq, Repr

/-- The codes of a fatal error (R185, R188). -/
inductive FatalCode where
  | invalidBitLength   -- 4
  | overflow           -- 5
deriving DecidableEq, Repr

/-- `ERR` (R28): 0, or the first fatal code of the session. -/
inductive ErrCode where
  | none                    -- 0
  | fatal (c : FatalCode)   -- 4 or 5
deriving DecidableEq, Repr

/-- The codes of a reject (R185, R186). -/
inductive RejectCode where
  | illegal    -- 1
  | badState   -- 2
  | badIndex   -- 3
deriving DecidableEq, Repr

/-- `VERDICT` (R29); value 3 is never held. -/
inductive Verdict where
  | none         -- 0: no verdict yet
  | matched      -- 1: MATCH
  | mismatched   -- 2: MISMATCH
deriving DecidableEq, Repr

/-- The registers of the BPS, "the complete architectural state" (R32), with the widths of that table. -/
structure Regs where
  /-- `BUF` (R22): position 0 first. -/
  buf     : List Bool
  /-- `WCOUNT` (R24). -/
  wcount  : BitVec 10
  /-- `ST` (R25). -/
  st      : Session
  /-- `KEYBITS` (R26). -/
  keybits : BitVec 14
  /-- `CSBITS` (R27). -/
  csbits  : BitVec 9
  /-- `ERR` (R28). -/
  err     : ErrCode
  /-- `VERDICT` (R29). -/
  verdict : Verdict
deriving DecidableEq, Repr

/-- The one response a command gets: `rsp_ok` and `rsp_data` (R42, R76). -/
structure Response where
  ok   : Bool
  data : Word
deriving DecidableEq, Repr

/-- The payload of a verification request (R43): the lengths and the bytes and bits themselves. -/
structure Request where
  /-- `vreq_len`. -/
  len : BitVec 11
  /-- `vreq_msg`, byte 0 first. -/
  msg : List Byte
  /-- `vreq_csn`. -/
  csn : BitVec 9
  /-- `vreq_cs`, bit 0 first. -/
  cs  : List Bool
deriving DecidableEq, Repr

/-- A move of one agent, one atomic step (R40, R58, R144, R210). -/
inductive Move where
  /-- The host offers a command word (R41). -/
  | offer (w : Word)
  /-- The BPS accepts the offered command and performs it (R41, R58). -/
  | perform
  /-- The stub accepts the request on its channel (R141, R144). -/
  | stubAccept
  /-- The stub answers the request it holds (R144). -/
  | stubAnswer
  /-- The BPS takes the stub's response (R142). -/
  | takeAnswer
  /-- The platform raises `rst`, for the BPS and the stub together (R45, R211). -/
  | assertReset
  /-- The platform lets `rst` fall (R210). -/
  | releaseReset
  /-- The BPS accepts the offered command, and `rst` rises before its response is sent (R210, item O9; log entry 21). -/
  | loseToReset
deriving DecidableEq, Repr

/-- The whole state: the registers, the channel registers of R41 to R45, the request the stub holds, and the model's
own two fields (`maxWords`, log entry 1; `agenda`, log entry 4). -/
structure State where
  /-- `MAX_WORDS` of this build (R7); no step writes it (log entry 1). -/
  maxWords : Nat
  /-- The registers of R32. -/
  regs     : Regs
  /-- `rst` (R45). -/
  rst      : Bool
  /-- The command channel: the word offered, none when `cmd_valid` = 0 (R41). -/
  cmd      : Option Word
  /-- The response channel: what the last step sent, none when it sent nothing (R42). -/
  rsp      : Option Response
  /-- The request placed and not yet accepted by the stub, none when `vreq_valid` = 0 (R43, R141). -/
  vreq     : Option Request
  /-- The request the stub has accepted and not yet answered (R144). -/
  stub     : Option Request
  /-- The stub's response on its channel (`vrsp_match`), none when `vrsp_valid` = 0 (R44). -/
  vrsp     : Option Bool
  /-- The moves the agents make next, the first one next (log entry 4). -/
  agenda   : List Move
deriving DecidableEq, Repr

/-- The machine has no fault: "There is no trap, no exception vector, no handler and no saved program counter" (R180).
Every abnormal outcome is a response and, if fatal, the state ERROR; both are next states. Nothing raises a fault. -/
inductive Fault where
deriving DecidableEq, Repr

/-- Why a step can have no meaning. -/
inductive Refusal where
  /-- An arm of `exec` whose instruction has no meaning in the model; raised by no arm (every instruction is modelled).
  Safe: the run stops. -/
  | notModelled (mnemonic : String)
deriving DecidableEq, Repr

/-- The registers at reset in a build with `n` words (R32, R210). -/
def Regs.reset (n : Nat) : Regs where
  buf := List.replicate (11 * n) false
  wcount := 0
  st := .collect
  keybits := 0
  csbits := 0
  err := .none
  verdict := .none

/-- The state right after reset of a build with `n` words (R210): every register at its reset value, "no request is
outstanding and no response is owed to the host". No command is offered and no move is planned (log entries 4 and 6). -/
def State.resetOf (n : Nat) : State where
  maxWords := n
  regs := Regs.reset n
  rst := false
  cmd := none
  rsp := none
  vreq := none
  stub := none
  vrsp := none
  agenda := []

/-- The state right after reset of this hardware, `MAX_WORDS` = 24 (R7, R210). -/
def State.reset : State := State.resetOf Config.maxWords

end Sys2Proof.Machine
end

