-- ==== Sys2Proof/Machine/Flags.lean ====
section
/-! DEFINITION. The encodings of the status fields and result codes, the STATUS word (R31, R164), and the legality of
reads by session state (R187). -/

namespace Sys2Proof.Machine

open Sys2Proof

/-- The three bits of `ST` (R25). -/
def Session.code : Session → BitVec 3
  | .collect => 0
  | .split => 1
  | .vwait => 2
  | .done => 3
  | .error => 7

/-- The result code of a fatal error (R185). -/
def FatalCode.code : FatalCode → BitVec 3
  | .invalidBitLength => 4
  | .overflow => 5

/-- The three bits of `ERR` (R28). -/
def ErrCode.code : ErrCode → BitVec 3
  | .none => 0
  | .fatal c => c.code

/-- The result code of a reject (R185). -/
def RejectCode.code : RejectCode → BitVec 3
  | .illegal => 1
  | .badState => 2
  | .badIndex => 3

/-- The two bits of `VERDICT` (R29). -/
def Verdict.code : Verdict → BitVec 2
  | .none => 0
  | .matched => 1
  | .mismatched => 2

/-- The verdict a stub response records: 1 is MATCH, 0 is MISMATCH (R142). -/
def Verdict.ofAnswer (m : Bool) : Verdict := if m then .matched else .mismatched

/-- The STATUS word (R31): bits 15:10 zero, VERDICT, bit 7 zero, ERR, bit 3 zero, ST. -/
def statusWord (r : Regs) : Word :=
  (0 : BitVec 6) ++ r.verdict.code ++ (0 : BitVec 1) ++ r.err.code ++ (0 : BitVec 1) ++ r.st.code

/-- The states in which entropy and checksum are readable: SPLIT, VWAIT, DONE (R122, R123, R187). -/
def Session.readable : Session → Bool
  | .collect => false
  | .split => true
  | .vwait => true
  | .done => true
  | .error => false

end Sys2Proof.Machine
end

