-- ==== Sys2Proof/Machine/Operands.lean ====
section
/-! DEFINITION. Reading and writing the bit buffer: `BitsRead` (R13), `Entropy` (R120), `Csum` (R121), the checksum chunk
of RDCS (R123), the bits of a pushed index (R100) and the quantities RDINFO reads (R165). -/

namespace Sys2Proof.Machine

open Sys2Proof

/-- `BUF[p]` (R13, R22). A position past the buffer's end does not exist, and reads a free value (log entry 10); no
reachable state reads one. -/
def bufBit (buf : List Bool) (p : Nat) : Bool := buf.getD p (Config.absentBit p)

/-- The `n`-bit number whose bits are `f 0, f 1, ..`, the most significant first (R13's sum). -/
def msbFirst (n : Nat) (f : Nat → Bool) : Nat :=
  ((List.range n).map fun t => (f t).toNat * 2 ^ (n - 1 - t)).sum

/-- `BitsRead(p, n)` (R13). -/
def bitsRead (buf : List Bool) (p n : Nat) : Nat := msbFirst n fun t => bufBit buf (p + t)

/-- The loop `for t: BUF[p + t] <- bits[t]` (R100). -/
def storeBits (buf : List Bool) (p : Nat) : List Bool → List Bool
  | [] => buf
  | b :: bs => storeBits (buf.set p b) (p + 1) bs

/-- The 11 bits of a word index, `idx[10]` first (R50, R100). -/
def indexBits (idx : Opnd) : List Bool := (List.range 11).map fun t => idx.getLsbD (10 - t)

/-- `totalBits = 11 * WCOUNT` (R16, R110). -/
def totalBits (r : Regs) : Nat := 11 * r.wcount.toNat

/-- The number of entropy bytes, `KEYBITS div 8` (R120). -/
def entropyLen (r : Regs) : Nat := r.keybits.toNat / 8

/-- `Entropy(k) = BitsRead(8*k, 8)` (R120). -/
def entropyByte (r : Regs) (k : Nat) : Byte := BitVec.ofNat 8 (bitsRead r.buf (8 * k) 8)

/-- `Csum(i) = BUF[KEYBITS + i]` (R121). -/
def checksumBit (r : Regs) (i : Nat) : Bool := bufBit r.buf (r.keybits.toNat + i)

/-- The entropy, `Entropy(0) .. Entropy(KEYBITS div 8 - 1)` (R120). -/
def entropyBytes (r : Regs) : List Byte := (List.range (entropyLen r)).map (entropyByte r)

/-- The checksum bits, `Csum(0) .. Csum(CSBITS - 1)` (R121). -/
def checksumBits (r : Regs) : List Bool := (List.range r.csbits.toNat).map (checksumBit r)

/-- Checksum chunk `j` (R123): bit `7 - t` is `Csum(8j + t)`, and 0 past `CSBITS`. -/
def checksumChunk (r : Regs) (j : Nat) : Byte :=
  BitVec.ofNat 8 (msbFirst 8 fun t => decide (8 * j + t < r.csbits.toNat) && checksumBit r (8 * j + t))

/-- What RDINFO returns for each selector (R165). -/
def infoValue (r : Regs) : InfoSel → Word
  | .wordCount => r.wcount.setWidth 16
  | .totalBits => BitVec.ofNat 16 (totalBits r)
  | .keyBits => r.keybits.setWidth 16
  | .checkSumBits => r.csbits.setWidth 16

/-- The registers after one index is packed (R100): its 11 bits at `11 * WCOUNT`, and `WCOUNT + 1`. -/
def packIndex (idx : Opnd) (r : Regs) : Regs :=
  { r with buf := storeBits r.buf (totalBits r) (indexBits idx), wcount := r.wcount + 1 }

/-- `checkSumBits = totalBits div 33` (R110). -/
def splitChecksum (r : Regs) : Nat := totalBits r / 33

/-- `keyBits = totalBits - checkSumBits` (R110). -/
def splitKey (r : Regs) : Nat := totalBits r - splitChecksum r

/-- The registers with the two counts of a split written, valid or not (R110). -/
def writeCounts (r : Regs) : Regs :=
  { r with keybits := BitVec.ofNat 14 (splitKey r), csbits := BitVec.ofNat 9 (splitChecksum r) }

/-- The payload of the request for the current entropy and checksum bits (R43, R140). -/
def requestOf (r : Regs) : Request where
  len := BitVec.ofNat 11 (entropyLen r)
  msg := entropyBytes r
  csn := r.csbits
  cs := checksumBits r

end Sys2Proof.Machine
end

