-- ==== Sys2Proof/Machine/Ops.lean ====
section
/-! DEFINITION. The shared operations of the command rules (R14): `respond`, `Reject` (R186), `Fatal` (R188), placing a
request (R140), starting an empty session (R162) and reset (R45, R210). -/

namespace Sys2Proof.Machine

open Sys2Proof

/-- `respond(ok, data)` (R14, R76). -/
def State.respond (s : State) (ok : Bool) (data : Word) : State := { s with rsp := some ⟨ok, data⟩ }

/-- `raise Reject(code)` (R186): the code as the response and no other change. -/
def State.reject (s : State) (c : RejectCode) : State := s.respond false (c.code.setWidth 16)

/-- The registers after a fatal error (R188): "first fatal code of the session is kept". -/
def Regs.enterError (r : Regs) (c : FatalCode) : Regs :=
  { r with err := if r.st = .error then r.err else .fatal c, st := .error }

/-- `raise Fatal(code)` (R188), the one entry to ERROR; what the command wrote before stands. -/
def State.fatal (s : State) (c : FatalCode) : State :=
  { s with regs := s.regs.enterError c }.respond false (c.code.setWidth 16)

/-- The registers written whole. -/
def State.withRegs (s : State) (r : Regs) : State := { s with regs := r }

/-- `ST <- v`. -/
def Regs.goto (r : Regs) (v : Session) : Regs := { r with st := v }

/-- `StubRequest(msg, cbits)` (R14, R43, R140): the one request, on the stub channel. -/
def State.placeRequest (s : State) : State := { s with vreq := some (requestOf s.regs) }

/-- Every register at its reset value (R162, R210): the way out of ERROR (R191). -/
def State.clearSession (s : State) : State := { s with regs := Regs.reset s.maxWords }

/-- Nothing outstanding at the stub: reset abandons a request, and the stub is reset with the BPS (R211). -/
def State.dropRequest (s : State) : State := { s with vreq := none, stub := none, vrsp := none }

end Sys2Proof.Machine
end

