-- ==== Sys2Proof/Machine/Verifier.lean ====
section
/-! DEFINITION. Checksum verification (42_verifier.md): VERIFY, the stub's required function `Verify` (R146), and the
stub response handler (R142). -/

namespace Sys2Proof.Machine

open Sys2Proof

/-- VERIFY (R140): places the request and does not wait for its acceptance (R141). -/
def execVerify (s : State) : Host.Outcome State Fault Refusal :=
  if s.regs.st ≠ .split then .next (s.reject .badState)
  else .next ((s.placeRequest.withRegs (s.regs.goto .vwait)).respond true 0)

/-- Digest bit `i`: "bit `(7 - i mod 8)` of byte `h[i div 8]`" (R146). -/
def digestBit (h : Digest) (i : Nat) : Bool := (h.toList.getD (i / 8) 0).getLsbD (7 - i % 8)

/-- The comparison loop of R146: every checksum bit equals the digest bit of its position. -/
def bitsAgree (h : Digest) (cbits : List Bool) : Bool :=
  (List.range cbits.length).all fun i => cbits.getD i false == digestBit h i

/-- `Verify(msg, cbits)` (R146) for up to 256 checksum bits; beyond them a free value (log entry 3). -/
def verdictOf (msg : List Byte) (cbits : List Bool) : Bool :=
  if cbits.length ≤ 256 then bitsAgree (Config.H msg) cbits else Config.verifyBeyondDigest msg cbits

/-- `on StubResponse(m)` (R142): taken in VWAIT, discarded elsewhere (R143). -/
def onStubResponse (m : Bool) (s : State) : State :=
  if s.regs.st = .vwait then
    s.withRegs { s.regs with verdict := Verdict.ofAnswer m, st := .done }
  else s

end Sys2Proof.Machine
end

