-- ==== Sys2Proof/Machine/Agents.lean ====
section
/-! DEFINITION. The moves of the three agents and of the platform's reset (R40 to R45, R141 to R144, R210, R211), and what
the next step does. A move that is not enabled does not happen (log entry 5). -/

namespace Sys2Proof.Machine

open Sys2Proof

/-- The host offers a word (R41). The channel holds one word; an offered word stays as it is until accepted. -/
def hostOffers (w : Word) (s : State) : State :=
  if s.cmd = none then { s with cmd := some w } else s

/-- The stub accepts the request on its channel (R141, R144). -/
def stubAccepts (s : State) : State :=
  match s.rst, s.vreq, s.stub with
  | false, some q, none => { s with vreq := none, stub := some q }
  | _, _, _ => s

/-- The stub answers the request it holds with `Verify`, exactly once (R144, R146). -/
def stubAnswers (s : State) : State :=
  match s.rst, s.stub, s.vrsp with
  | false, some q, none => { s with stub := none, vrsp := some (verdictOf q.msg q.cs) }
  | _, _, _ => s

/-- The BPS takes the stub's response (R142), or discards it while reset is asserted (R45). -/
def takesResponse (s : State) : State :=
  match s.vrsp with
  | none => s
  | some m => if s.rst then { s with vrsp := none } else onStubResponse m { s with vrsp := none }

/-- `rst` rises (R45): the session and the outstanding request are gone (R210, R211; log entry 9). A word that is offered
and not accepted stays offered (log entry 6); one that was accepted and not answered is lost by `losesToReset` (R210, item
O9; log entry 21). -/
def raisesReset (s : State) : State := { s.clearSession.dropRequest with rst := true }

/-- `rst` falls from 1 to 0 (R210): every register holds its reset value. -/
def dropsReset (s : State) : State :=
  if s.rst then { s.clearSession.dropRequest with rst := false } else s

/-- A step begins: the next move leaves the agenda, and the response of the step before is over (log entry 7). -/
def State.begin (s : State) : State := { s with agenda := s.agenda.tail, rsp := none }

/-- The offered word leaves the command channel: it is accepted (R41). -/
def State.accept (s : State) : State := { s with cmd := none }

/-- The BPS accepts the offered command and `rst` rises before the response is sent: "A command accepted before reset whose
response was not yet sent gets no response" (R210). Whether the command took effect first makes no difference, as item O9
says, since every register and the request channel end at their reset values (log entry 21). -/
def losesToReset (s : State) : State :=
  match s.rst, s.cmd with
  | false, some _ => raisesReset s.accept
  | _, _ => s

/-- What a step does: perform a command, or only reach a state. -/
inductive Action where
  | run (i : Instr) (s : State)
  | settle (s : State)

/-- The BPS accepts the offered word, unless reset is asserted or nothing is offered, and decodes it (R41, R73). An
ILLEGAL word is rejected before any state is read (R74, R189). DESIGN CHOICE (log entry 21): acceptance stands in the same
step as the command's effect and its response, whose time after acceptance R10 leaves open; a command accepted and then
lost to reset without a response (R210, item O9) is a move of its own, `losesToReset`. -/
def acceptAction (s : State) : Action :=
  match s.rst, s.cmd with
  | false, some w =>
    match decode w with
    | .command i => .run i s.accept
    | .illegal _ => .settle (s.accept.reject .illegal)
  | _, _ => .settle s

/-- One move. -/
def moveAction (m : Move) (s : State) : Action :=
  match m with
  | .offer w => .settle (hostOffers w s)
  | .perform => acceptAction s
  | .stubAccept => .settle (stubAccepts s)
  | .stubAnswer => .settle (stubAnswers s)
  | .takeAnswer => .settle (takesResponse s)
  | .assertReset => .settle (raisesReset s)
  | .releaseReset => .settle (dropsReset s)
  | .loseToReset => .settle (losesToReset s)

/-- What the next step does: the first move of the agenda, or nothing when no move is planned. -/
def nextAction (s : State) : Action :=
  match s.agenda with
  | [] => .settle s.begin
  | m :: _ => moveAction m s.begin

/-- `cmd_ready` (R41): 1 in a step in which the BPS accepts, 0 while reset is asserted. -/
def State.cmdReady (s : State) : Bool :=
  !s.rst && (s.agenda.head? == some .perform || s.agenda.head? == some .loseToReset)

/-- `vreq_ready` (R43): 1 in the step in which the stub accepts. -/
def State.vreqReady (s : State) : Bool := !s.rst && s.stub.isNone && s.agenda.head? == some .stubAccept

/-- A command word placed where the next step takes it: offered, reset not asserted, and the BPS to move (log entry 4). -/
def State.placeWord (s : State) (w : Word) : State :=
  { s with rst := false, cmd := some w, agenda := .perform :: s.agenda }

end Sys2Proof.Machine
end

