-- ==== Sys2Proof/Machine/Control.lean ====
section
/-! DEFINITION. Session control and status (43_control.md): NOP, CLEAR, RDSTAT, RDINFO. -/

namespace Sys2Proof.Machine

open Sys2Proof

/-- NOP (R161). -/
def execNop (s : State) : Host.Outcome State Fault Refusal := .next (s.respond true 0)

/-- CLEAR (R162): rejected while a request is outstanding, else the reset state's registers. -/
def execClear (s : State) : Host.Outcome State Fault Refusal :=
  if s.regs.st = .vwait then .next (s.reject .badState)
  else .next (s.clearSession.respond true 0)

/-- RDSTAT (R164). -/
def execRdstat (s : State) : Host.Outcome State Fault Refusal := .next (s.respond true (statusWord s.regs))

/-- RDINFO (R165). -/
def execRdinfo (sel : InfoSel) (s : State) : Host.Outcome State Fault Refusal :=
  .next (s.respond true (infoValue s.regs sel))

end Sys2Proof.Machine
end

