-- ==== Sys2Proof/Machine/Packer.lean ====
section
/-! DEFINITION. The bit packer (40_packer.md): PUSH. -/

namespace Sys2Proof.Machine

open Sys2Proof

/-- PUSH (R100). -/
def execPush (idx : Opnd) (s : State) : Host.Outcome State Fault Refusal :=
  if s.regs.st ≠ .collect then .next (s.reject .badState)
  else if s.regs.wcount.toNat = s.maxWords then .next (s.fatal .overflow)
  else .next ((s.withRegs (packIndex idx s.regs)).respond true 0)

end Sys2Proof.Machine
end

