-- ==== Sys2Proof/Machine/Splitter.lean ====
section
/-! DEFINITION. The entropy/checksum splitter and its reads (41_splitter.md): SPLIT, RDBYTE, RDCS. -/

namespace Sys2Proof.Machine

open Sys2Proof

/-- SPLIT (R110): the counts are written, valid or not, before the length is checked. -/
def execSplit (s : State) : Host.Outcome State Fault Refusal :=
  if s.regs.st ≠ .collect then .next (s.reject .badState)
  else if splitKey s.regs % 32 ≠ 0 then .next ((s.withRegs (writeCounts s.regs)).fatal .invalidBitLength)
  else .next ((s.withRegs ((writeCounts s.regs).goto .split)).respond true 0)

/-- RDBYTE (R122). -/
def execRdbyte (k : Opnd) (s : State) : Host.Outcome State Fault Refusal :=
  if s.regs.st.readable = false then .next (s.reject .badState)
  else if entropyLen s.regs ≤ k.toNat then .next (s.reject .badIndex)
  else .next (s.respond true ((entropyByte s.regs k.toNat).setWidth 16))

/-- RDCS (R123). -/
def execRdcs (j : Opnd) (s : State) : Host.Outcome State Fault Refusal :=
  if s.regs.st.readable = false then .next (s.reject .badState)
  else if s.regs.csbits.toNat ≤ 8 * j.toNat then .next (s.reject .badIndex)
  else .next (s.respond true ((checksumChunk s.regs j.toNat).setWidth 16))

end Sys2Proof.Machine
end

