-- ==== Sys2Proof/Machine/Dispatch.lean ====
section
/-! DEFINITION. The meaning of each command, one direct call per constructor. -/

namespace Sys2Proof.Machine
open Sys2Proof

def exec (i : Instr) (s : State) : Host.Outcome State Fault Refusal :=
  match i with
  | .nop => Sys2Proof.Machine.execNop s
  | .clear => Sys2Proof.Machine.execClear s
  | .push idx => Sys2Proof.Machine.execPush idx s
  | .split => Sys2Proof.Machine.execSplit s
  | .verify => Sys2Proof.Machine.execVerify s
  | .rdstat => Sys2Proof.Machine.execRdstat s
  | .rdinfo sel => Sys2Proof.Machine.execRdinfo sel s
  | .rdbyte k => Sys2Proof.Machine.execRdbyte k s
  | .rdcs j => Sys2Proof.Machine.execRdcs j s

end Sys2Proof.Machine
end

