-- ==== Sys2Proof/Machine/Step.lean ====
section
/-! DEFINITION. One step of the machine: one move of one agent (R58), a command's whole effect included. -/

namespace Sys2Proof.Machine

open Sys2Proof

/-- The outcome of an action: a performed command's is `exec`'s. -/
def Action.outcome : Action → Host.Outcome State Fault Refusal
  | .run i s => exec i s
  | .settle s => .next s

/-- One atomic step (R58): the next move of the agenda. -/
def step (s : State) : Host.Outcome State Fault Refusal := (nextAction s).outcome

/-- `s` with a word of the opcode table offered on the command channel and the BPS to perform it next. -/
def State.withFetchWord (s : State) (nbits w : Nat) : State := s.placeWord (tableWord nbits w)

end Sys2Proof.Machine
end

