-- ==== Sys2Proof/Machine/HostSide.lean ====
section
/-! DEFINITION. What the host does with the block: assembly text (R80), sending commands, the decode sequence and the
polling loop (R81, R214), and the result of an ended session (R221). -/

namespace Sys2Proof.Machine

open Sys2Proof

/-- Several steps, stopping at a step that answers no next state. -/
def steps : Nat → State → Host.Outcome State Fault Refusal
  | 0, s => .next s
  | n + 1, s =>
    match step s with
    | .next t => steps n t
    | o => o

/-- The moves of sending one word and having it performed. -/
def sendMoves (w : Word) : List Move := [.offer w, .perform]

/-- The moves of sending words one after the other with no other move between (R60). -/
def sendAll (ws : List Word) : List Move := ws.flatMap sendMoves

/-- The state with the given moves planned, in place of any other. -/
def State.plan (s : State) (ms : List Move) : State := { s with agenda := ms }

/-- The host sends the given commands, one after the other. -/
def sendCommands (is : List Instr) (s : State) : Host.Outcome State Fault Refusal :=
  let ms := sendAll (is.map encode)
  steps ms.length (s.plan ms)

/-- A pseudo-instruction of fixed length: its expansion sent (R81); none where the assembler refuses it (R80). -/
def sendPseudo (p : Pseudo) (s : State) : Option (Host.Outcome State Fault Refusal) :=
  p.elaborate.map fun is => sendCommands is s

/-- One poll of `WAITV`: the moves that fall before it, then RDSTAT sent and performed (R81, R215). -/
def pollStatus (before : List Move) (s : State) : Host.Outcome State Fault Refusal :=
  let ms := before ++ sendMoves (encode .rdstat)
  steps ms.length (s.plan ms)

/-- The `STATE` field (bits 2:0) of a response (R31, R81). -/
def Response.stateField (r : Response) : BitVec 3 := r.data.extractLsb' 0 3

/-- The response shows VWAIT (R81). DESIGN CHOICE (log entry 17): a poll that got no response, because the moves before
it left reset asserted, does not show VWAIT, so the loop ends without a result. -/
def showsVwait (s : State) : Bool :=
  match s.rsp with
  | some r => r.stateField == 2
  | none => false

/-- `WAITV` (R81): RDSTAT repeated while the response's STATE field is 2. The list gives, poll by poll, the moves that
fall before it; the loop has run out of time when the list ends (R219, R220; log entry 17). -/
def waitVerdict : List (List Move) → State → Host.Outcome State Fault Refusal
  | [], s => .next s
  | b :: bs, s =>
    match pollStatus b s with
    | .next t => if showsVwait t then waitVerdict bs t else .next t
    | o => o

/-- The counts a host can read after an ended session (R221). -/
structure Counts where
  words : Nat
  keyBits : Nat
  checkSumBits : Nat
deriving DecidableEq, Repr

/-- The result of an ended session (R221). -/
inductive DecodeResult where
  | decoded (entropy : List Byte) (checksum : List Bool) (verdict : Verdict) (counts : Counts)
  | failed (err : ErrCode) (counts : Counts)
deriving DecidableEq, Repr

/-- The counts of a session. -/
def countsOf (r : Regs) : Counts := ⟨r.wcount.toNat, r.keybits.toNat, r.csbits.toNat⟩

/-- "A session has ended when `ST` is DONE or ERROR" (R221); a session in another state has no result. -/
def sessionResult (r : Regs) : Option DecodeResult :=
  match r.st with
  | .collect => none
  | .split => none
  | .vwait => none
  | .done => some (.decoded (entropyBytes r) (checksumBits r) r.verdict (countsOf r))
  | .error => some (.failed r.err (countsOf r))

/-- The mnemonics as they are written (R72, R80). -/
def mnemonicNames : List (List Char × Mnemonic) :=
  [ (['N', 'O', 'P'], .nop),
    (['C', 'L', 'E', 'A', 'R'], .clear),
    (['P', 'U', 'S', 'H'], .push),
    (['S', 'P', 'L', 'I', 'T'], .split),
    (['V', 'E', 'R', 'I', 'F', 'Y'], .verify),
    (['R', 'D', 'S', 'T', 'A', 'T'], .rdstat),
    (['R', 'D', 'I', 'N', 'F', 'O'], .rdinfo),
    (['R', 'D', 'B', 'Y', 'T', 'E'], .rdbyte),
    (['R', 'D', 'C', 'S'], .rdcs) ]

/-- The value of a digit in the given base; hex digits in either case (log entry 13). -/
def digitValue (base : Nat) (c : Char) : Option Nat :=
  let n := c.toNat
  let v :=
    if 48 ≤ n ∧ n ≤ 57 then n - 48
    else if 65 ≤ n ∧ n ≤ 70 then n - 55
    else if 97 ≤ n ∧ n ≤ 102 then n - 87
    else 16
  if v < base then some v else none

/-- The digits of a literal, most significant first. -/
def digitsValue (base : Nat) : List Char → Nat → Option Nat
  | [], acc => some acc
  | c :: cs, acc => (digitValue base c).bind fun d => digitsValue base cs (base * acc + d)

/-- "a decimal literal or a `0x` hex literal" (R80). -/
def literalValue : List Char → Option Nat
  | [] => none
  | ['0', 'x'] => none
  | '0' :: 'x' :: ds => digitsValue 16 ds 0
  | ds => digitsValue 10 ds 0

/-- A line without its comment (R80). DESIGN CHOICE (log entry 13): the `;` may stand directly after the mnemonic or the
operand, with no blank between. -/
def dropComment : List Char → List Char
  | [] => []
  | c :: cs => if c = ';' then [] else c :: dropComment cs

/-- The words of a line, split at blanks and tabs (log entry 13). -/
def lineWords : List Char → List Char → List (List Char)
  | [], [] => []
  | [], w => [w.reverse]
  | c :: cs, w =>
    if c = ' ' ∨ c = '\t' then
      match w with
      | [] => lineWords cs []
      | _ => w.reverse :: lineWords cs []
    else lineWords cs (c :: w)

/-- The mnemonic a word names; upper case only (R80). -/
def mnemonicNamed (w : List Char) : Option Mnemonic := (mnemonicNames.find? fun p => p.1 == w).map Prod.snd

/-- One line of assembly, `MNEMONIC [operand] [; comment]` (R80); none for a line of another shape. -/
def parseLine (line : List Char) : Option SourceCommand :=
  match lineWords (dropComment line) [] with
  | [m] => (mnemonicNamed m).map fun k => ⟨k, none⟩
  | [m, n] => (mnemonicNamed m).bind fun k => (literalValue n).map fun v => ⟨k, some v⟩
  | _ => none

/-- The word of one line of assembly; none where the assembler refuses it (R80). -/
def assembleLine (line : List Char) : Option Word := (parseLine line).bind assemble

end Sys2Proof.Machine
end

