-- ==== Sys2Proof/Safety.lean ====
section
/-! DEFINITION. What a sound state is, in the terms the statements use: the invariants of R23, R24, R33, R34 and R141, and
that a recorded verdict is `Verify` of the session's own bits (R142, R144, R146). -/

namespace Sys2Proof.Machine

open Sys2Proof

/-- The register invariants of R33, the buffer invariant of R23 and the range of R24. -/
structure Regs.Sound (n : Nat) (r : Regs) : Prop where
  /-- R22: the buffer's length. -/
  bufLength : r.buf.length = 11 * n
  /-- R24: `WCOUNT` is in `[0, MAX_WORDS]`. -/
  countRange : r.wcount.toNat ≤ n
  /-- R23: the buffer's positions at or past `11 * WCOUNT` are 0. -/
  tailZero : ∀ p, totalBits r ≤ p → p < 11 * n → bufBit r.buf p = false
  /-- R33.1. -/
  collecting : r.st = .collect → r.keybits = 0 ∧ r.csbits = 0 ∧ r.err = .none ∧ r.verdict = .none
  /-- R33.2. -/
  splitDone : r.st = .split ∨ r.st = .vwait ∨ r.st = .done →
    r.keybits.toNat + r.csbits.toNat = totalBits r ∧ r.csbits.toNat = totalBits r / 33 ∧
      r.keybits.toNat % 32 = 0 ∧ r.wcount.toNat % 3 = 0 ∧ r.err = .none
  /-- R33.3. -/
  verdictDone : r.st ≠ .error → (r.verdict ≠ .none ↔ r.st = .done)
  /-- R33.4. -/
  errorCode : r.st = .error → r.err ≠ .none ∧ r.verdict = .none
  /-- R33.5. -/
  overflowed : r.st = .error → r.err = .fatal .overflow →
    r.wcount.toNat = n ∧ r.keybits = 0 ∧ r.csbits = 0
  /-- R33.6. -/
  badLength : r.st = .error → r.err = .fatal .invalidBitLength →
    r.keybits.toNat + r.csbits.toNat = totalBits r ∧ r.keybits.toNat % 32 ≠ 0
  /-- R142, R144, R146: the recorded verdict is `Verify` of the session's entropy and checksum bits. -/
  verdictTrue : r.st = .done → r.verdict = Verdict.ofAnswer (verdictOf (entropyBytes r) (checksumBits r))

/-- How many requests are on their way: placed, held by the stub, or answered and not yet taken (R141). -/
def State.inFlight (s : State) : Nat := s.vreq.toList.length + s.stub.toList.length + s.vrsp.toList.length

/-- The channel invariants: one outstanding request exactly while `ST` = VWAIT (R34, R141), its payload that of the
current buffer (R34, R43), and an answer on its way is `Verify` of that payload (R144). -/
structure State.ChannelsSound (s : State) : Prop where
  one : s.inFlight = if s.regs.st = .vwait then 1 else 0
  placed : ∀ q, s.vreq = some q → q = requestOf s.regs
  held : ∀ q, s.stub = some q → q = requestOf s.regs
  answered : ∀ m, s.vrsp = some m → m = verdictOf (entropyBytes s.regs) (checksumBits s.regs)

/-- A sound state: a legal build (R7), sound registers and channels, and, the model's choice of log entry 9, the reset
values while `rst` = 1 (R45 and R210 give them at the fall of `rst` only). -/
structure State.Inv (s : State) : Prop where
  build : 1 ≤ s.maxWords ∧ s.maxWords ≤ Config.maxWordsLimit
  regs : s.regs.Sound s.maxWords
  channels : s.ChannelsSound
  inReset : s.rst = true → s.regs = Regs.reset s.maxWords

/-- The next move of the agenda is `m`. -/
def State.moves (s : State) (m : Move) : Prop := s.agenda.head? = some m

/-- The next step performs the command `i`: the BPS is to move, reset is not asserted, and the offered word decodes to
`i` (R41, R73). -/
def State.performs (s : State) (i : Instr) : Prop :=
  s.moves .perform ∧ s.rst = false ∧ ∃ w, s.cmd = some w ∧ decode w = .command i

/-- The next step is a reset: `rst` rises, with or without a command lost to it, or falls from 1 (R45, R210). -/
def State.resets (s : State) : Prop :=
  s.moves .assertReset ∨ (s.moves .releaseReset ∧ s.rst = true) ∨
    (s.moves .loseToReset ∧ s.rst = false ∧ ∃ w, s.cmd = some w)

/-- The host can send: reset is not asserted and the command channel is free (R41). -/
def State.canSend (s : State) : Prop := s.rst = false ∧ s.cmd = none

/-- An empty session in COLLECT, as reset or CLEAR leaves it (R162, R210). -/
def State.freshSession (s : State) : Prop := s.regs.st = .collect ∧ s.regs.wcount = 0

end Sys2Proof.Machine
end

