-- ==== Sys2Proof/Certificates/Slice0/Obligations.lean ====
section
/-! DEFINITION. The statements for the provers, taken from the numbered rules of spec/. Each says which rule it states. -/

open Sys2Proof Sys2Proof.Machine

/- ---- Encoding ---- -/

/-- R70 to R73: decoding an encoded command gives it back, with every operand at every value. -/
def Obligations.DecodeOfEncodeGivesCommand : Prop := ∀ i : Instr, decode (encode i) = .command i

/-- R70 to R73: a word that decodes to a command is that command's word; no bit of it is ignored. -/
def Obligations.EncodeOfDecodedWordGivesWord : Prop := ∀ (w : Word) (i : Instr), decode w = .command i → encode i = w

/-- R72: which words spell which command, that a word spells a legal command exactly when one row matches it, and that
the rows do not overlap. -/
def Obligations.WordsSpellTheRowsOfTheOpcodeMap : Prop :=
  ∀ w : Word,
    (decode w = .command .nop ↔ w &&& 0xFFFF = 0x0000) ∧
    (decode w = .command .clear ↔ w &&& 0xFFFF = 0x0800) ∧
    ((∃ idx, decode w = .command (.push idx)) ↔ w &&& 0xF800 = 0x1000) ∧
    (decode w = .command .split ↔ w &&& 0xFFFF = 0x1800) ∧
    (decode w = .command .verify ↔ w &&& 0xFFFF = 0x2000) ∧
    (decode w = .command .rdstat ↔ w &&& 0xFFFF = 0x2800) ∧
    ((∃ sel, decode w = .command (.rdinfo sel)) ↔ w &&& 0xFFFC = 0x3000) ∧
    ((∃ k, decode w = .command (.rdbyte k)) ↔ w &&& 0xF800 = 0x3800) ∧
    ((∃ j, decode w = .command (.rdcs j)) ↔ w &&& 0xF800 = 0x4000) ∧
    ((∃ e, decode w = .illegal e) ↔ ∀ r ∈ opcodeMap, r.spells w = false) ∧
    (∀ r ∈ opcodeMap, ∀ r' ∈ opcodeMap, r.spells w = true → r'.spells w = true → r = r') ∧
    (0x48 ≤ w.toNat / 256 → ∃ e, decode w = .illegal e)

/-- Words written out from the encodings of R72 and R73 decode to the commands they stand for; a sanity check. -/
def Obligations.SampleWordsDecode : Prop :=
  decode 0b00000_00000000000 = .command .nop ∧
  decode 0b00001_00000000000 = .command .clear ∧
  decode 0b00010_10000000101 = .command (.push 1029) ∧
  decode 0b00011_00000000000 = .command .split ∧
  decode 0b00100_00000000000 = .command .verify ∧
  decode 0b00101_00000000000 = .command .rdstat ∧
  decode 0b00110_00000000011 = .command (.rdinfo .checkSumBits) ∧
  decode 0b00111_00000001111 = .command (.rdbyte 15) ∧
  decode 0b01000_00000000000 = .command (.rdcs 0) ∧
  decode 0b00000_00000000001 = .illegal .operandNotZero ∧
  decode 0b00110_00000000100 = .illegal .mbzNotZero ∧
  decode 0b01001_00000000000 = .illegal .reservedOpcode

/-- R80: the word of `MNEMONIC n` is `match | n`; an operand out of range, missing, or not allowed is refused. -/
def Obligations.AssemblerEncodesAndNeverTruncates : Prop :=
  (assemble ⟨.nop, none⟩ = some 0x0000 ∧ assemble ⟨.clear, none⟩ = some 0x0800 ∧
    assemble ⟨.split, none⟩ = some 0x1800 ∧ assemble ⟨.verify, none⟩ = some 0x2000 ∧
    assemble ⟨.rdstat, none⟩ = some 0x2800) ∧
  (∀ n, n < 2048 →
    assemble ⟨.push, some n⟩ = some (0x1000 ||| BitVec.ofNat 16 n) ∧
    assemble ⟨.rdbyte, some n⟩ = some (0x3800 ||| BitVec.ofNat 16 n) ∧
    assemble ⟨.rdcs, some n⟩ = some (0x4000 ||| BitVec.ofNat 16 n)) ∧
  (∀ n, n < 4 → assemble ⟨.rdinfo, some n⟩ = some (0x3000 ||| BitVec.ofNat 16 n)) ∧
  (∀ n, 2048 ≤ n →
    assemble ⟨.push, some n⟩ = none ∧ assemble ⟨.rdbyte, some n⟩ = none ∧ assemble ⟨.rdcs, some n⟩ = none) ∧
  (∀ n, 4 ≤ n → assemble ⟨.rdinfo, some n⟩ = none) ∧
  (∀ m, m = Mnemonic.push ∨ m = .rdinfo ∨ m = .rdbyte ∨ m = .rdcs → assemble ⟨m, none⟩ = none) ∧
  (∀ m n, m = Mnemonic.nop ∨ m = .clear ∨ m = .split ∨ m = .verify ∨ m = .rdstat → assemble ⟨m, some n⟩ = none)

/-- R80, R81: what WORDS, DECODE and RDENT expand to, and that one with an operand out of range is refused and never
truncated (RDENT of more than 2048 bytes among them; the refusal as a whole is the model's reading, log entry 13). -/
def Obligations.PseudoInstructionsExpandOrAreRefused : Prop :=
  (∀ ws : List Opnd, (Pseudo.words (ws.map BitVec.toNat)).elaborate = some (ws.map .push)) ∧
  (∀ ws : List Opnd, (Pseudo.decode (ws.map BitVec.toNat)).elaborate =
    some (.clear :: (ws.map .push ++ [.split, .verify]))) ∧
  (∀ L, L ≤ 2048 → ∃ is, (Pseudo.rdent L).elaborate = some is ∧ is.length = L ∧
    ∀ k, k < L → ∃ o : Opnd, is[k]? = some (.rdbyte o) ∧ o.toNat = k) ∧
  (∀ L, 2048 < L → (Pseudo.rdent L).elaborate = none) ∧
  (∀ (is : List Nat) (n : Nat), n ∈ is → 2048 ≤ n →
    (Pseudo.words is).elaborate = none ∧ (Pseudo.decode is).elaborate = none)

/- ---- The step ---- -/

/-- R41, R58, R73: where the BPS is to move and the offered word decodes to a command, the step is that command's
meaning, after the move has left the agenda, the word has left the channel, and the last response is over. -/
def Obligations.StepRunsTheDecodedCommand : Prop :=
  ∀ (s : State) (w : Word) (i : Instr) (ms : List Move),
    s.agenda = .perform :: ms → s.rst = false → s.cmd = some w → decode w = .command i →
      step s = exec i { s with agenda := ms, cmd := none, rsp := none }

/-- R180: nothing stops the machine; every step answers a next state. -/
def Obligations.EveryStepAnswersANextState : Prop := ∀ s : State, ∃ t, step s = .next t

/-- R41, R42, R210: a step sends a response exactly when it performs an accepted word, one response; an accepted word,
answered or lost to reset (log entry 21), leaves the channel; and a word that is not accepted stays on it, through every
other move (through the moves of reset it stays by the model's choice of log entry 6). -/
def Obligations.OneResponsePerAcceptedCommand : Prop :=
  ∀ s t : State, step s = .next t →
    ((∃ r, t.rsp = some r) ↔ s.moves .perform ∧ s.rst = false ∧ ∃ w, s.cmd = some w) ∧
    (s.cmdReady = true → t.cmd = none) ∧
    (s.cmdReady = false → ∀ w, s.cmd = some w → t.cmd = some w)

/- ---- The commands ---- -/

/-- R161: NOP responds (1, 0x0000) in every state and changes nothing else; 0x0001 to 0x07FF are ILLEGAL, not NOP. -/
def Obligations.NopEffect : Prop :=
  encode .nop = 0x0000 ∧
  (∀ s : State, exec .nop s = .next { s with rsp := some ⟨true, 0⟩ }) ∧
  (∀ w : Word, 0x0001 ≤ w.toNat → w.toNat ≤ 0x07FF → ∃ e, decode w = .illegal e)

/-- R162: CLEAR is rejected in VWAIT; in every other state it writes every register with its reset value; no other
command leaves ERROR. -/
def Obligations.ClearEffect : Prop :=
  encode .clear = 0x0800 ∧
  (∀ s : State, s.regs.st = .vwait → exec .clear s = .next { s with rsp := some ⟨false, 2⟩ }) ∧
  (∀ s : State, s.regs.st ≠ .vwait → exec .clear s = .next
    { s with
      regs := { buf := List.replicate (11 * s.maxWords) false, wcount := 0, st := .collect, keybits := 0, csbits := 0,
                err := .none, verdict := .none },
      rsp := some ⟨true, 0⟩ }) ∧
  (∀ (i : Instr) (s t : State), s.regs.st = .error → exec i s = .next t → t.regs.st ≠ .error → i = .clear)

/-- R100: PUSH, all its cases: BAD_STATE outside COLLECT, OVERFLOW when full, else the 11 bits of the index, most
significant first, at `11 * WCOUNT`, and `WCOUNT + 1`; nothing else of the state changes. -/
def Obligations.PushEffect : Prop :=
  (∀ idx : Opnd, encode (.push idx) = 0x1000 ||| idx.setWidth 16) ∧
  (∀ (idx : Opnd) (s : State), s.regs.st ≠ .collect →
    exec (.push idx) s = .next { s with rsp := some ⟨false, 2⟩ }) ∧
  (∀ (idx : Opnd) (s : State), s.regs.st = .collect → s.regs.wcount.toNat = s.maxWords →
    exec (.push idx) s = .next
      { s with regs := { s.regs with err := .fatal .overflow, st := .error }, rsp := some ⟨false, 5⟩ }) ∧
  (∀ (idx : Opnd) (s : State), s.maxWords ≤ 768 → s.regs.buf.length = 11 * s.maxWords →
    s.regs.st = .collect → s.regs.wcount.toNat < s.maxWords →
    ∃ t, exec (.push idx) s = .next t ∧
      t = { s with regs := { s.regs with buf := t.regs.buf, wcount := t.regs.wcount }, rsp := some ⟨true, 0⟩ } ∧
      t.regs.wcount.toNat = s.regs.wcount.toNat + 1 ∧
      t.regs.buf.length = s.regs.buf.length ∧
      (∀ n, n ≤ 10 → bufBit t.regs.buf (11 * s.regs.wcount.toNat + n) = idx.getLsbD (10 - n)) ∧
      (∀ p, p < 11 * s.regs.wcount.toNat ∨ 11 * s.regs.wcount.toNat + 11 ≤ p →
        bufBit t.regs.buf p = bufBit s.regs.buf p))

/-- R110: SPLIT, all its cases: BAD_STATE outside COLLECT; else KEYBITS and CSBITS are written from `11 * WCOUNT`, and
the state is SPLIT when KEYBITS is a multiple of 32 and ERROR with code 4 when it is not; nothing else changes. -/
def Obligations.SplitEffect : Prop :=
  encode .split = 0x1800 ∧
  (∀ s : State, s.regs.st ≠ .collect → exec .split s = .next { s with rsp := some ⟨false, 2⟩ }) ∧
  (∀ (s : State) (T CS K : Nat), s.regs.st = .collect → T = 11 * s.regs.wcount.toNat → CS = T / 33 → K = T - CS →
    ∃ t, exec .split s = .next t ∧ t.regs.keybits.toNat = K ∧ t.regs.csbits.toNat = CS ∧
      (K % 32 = 0 →
        t = { s with
              regs := { s.regs with keybits := t.regs.keybits, csbits := t.regs.csbits, st := .split },
              rsp := some ⟨true, 0⟩ }) ∧
      (K % 32 ≠ 0 →
        t = { s with
              regs := { s.regs with keybits := t.regs.keybits, csbits := t.regs.csbits,
                                    err := .fatal .invalidBitLength, st := .error },
              rsp := some ⟨false, 4⟩ }))

/-- R111: with `WCOUNT = 3q + r`, the counts of the split, and that it is valid exactly when `WCOUNT` is a multiple of 3,
with `KEYBITS = 32 * CSBITS` then. -/
def Obligations.SplitValidExactlyOnMultiplesOfThree : Prop :=
  ∀ (s : State) (q r : Nat), s.regs.st = .collect → s.regs.wcount.toNat = 3 * q + r → r < 3 →
    11 * s.regs.wcount.toNat = 33 * q + 11 * r ∧
    ∃ t, exec .split s = .next t ∧ t.regs.csbits.toNat = q ∧ t.regs.keybits.toNat = 32 * q + 11 * r ∧
      t.regs.keybits.toNat % 32 = 11 * r % 32 ∧
      (t.regs.st = .split ↔ s.regs.wcount.toNat % 3 = 0) ∧
      (t.regs.st = .split → t.regs.keybits.toNat = 32 * (s.regs.wcount.toNat / 3) ∧
        t.regs.csbits.toNat = s.regs.wcount.toNat / 3 ∧ t.regs.keybits.toNat = 32 * t.regs.csbits.toNat ∧
        t.regs.keybits.toNat / 8 = 4 * t.regs.csbits.toNat) ∧
      (s.regs.wcount.toNat ≤ s.maxWords → s.maxWords ≤ 768 → t.regs.csbits.toNat ≤ 256)

/-- R140: VERIFY, all its cases: BAD_STATE outside SPLIT; else the request for the entropy bytes and the checksum bits
is placed and the state is VWAIT; nothing else changes. -/
def Obligations.VerifyEffect : Prop :=
  encode .verify = 0x2000 ∧
  (∀ s : State, s.regs.st ≠ .split → exec .verify s = .next { s with rsp := some ⟨false, 2⟩ }) ∧
  (∀ s : State, s.regs.st = .split → ∃ t q, exec .verify s = .next t ∧
    t = { s with regs := { s.regs with st := .vwait }, vreq := some q, rsp := some ⟨true, 0⟩ } ∧
    q.len.toNat = s.regs.keybits.toNat / 8 ∧ q.msg.length = s.regs.keybits.toNat / 8 ∧
    (∀ k b, k < s.regs.keybits.toNat / 8 → b < 8 →
      (q.msg.getD k 0).getLsbD (7 - b) = bufBit s.regs.buf (8 * k + b)) ∧
    q.csn = s.regs.csbits ∧ q.cs.length = s.regs.csbits.toNat ∧
    (∀ n, n < s.regs.csbits.toNat → q.cs.getD n false = bufBit s.regs.buf (s.regs.keybits.toNat + n)))

/-- R164: RDSTAT responds with the status word, in every state, and changes nothing else; the words a sound session
shows. -/
def Obligations.RdstatEffect : Prop :=
  encode .rdstat = 0x2800 ∧
  (∀ s : State, ∃ d : Word, exec .rdstat s = .next { s with rsp := some ⟨true, d⟩ } ∧
    d.extractLsb' 0 3 = (match s.regs.st with
      | .collect => 0 | .split => 1 | .vwait => 2 | .done => 3 | .error => 7) ∧
    d.extractLsb' 4 3 = (match s.regs.err with
      | .none => 0 | .fatal .invalidBitLength => 4 | .fatal .overflow => 5) ∧
    d.extractLsb' 8 2 = (match s.regs.verdict with
      | .none => 0 | .matched => 1 | .mismatched => 2) ∧
    d.getLsbD 3 = false ∧ d.getLsbD 7 = false ∧ d.extractLsb' 10 6 = 0 ∧
    (s.Inv → s.regs.st = .vwait → d = 0x0002) ∧
    (s.Inv → s.regs.st = .done → s.regs.verdict = .matched → d = 0x0103) ∧
    (s.Inv → s.regs.st = .done → s.regs.verdict = .mismatched → d = 0x0203) ∧
    (s.Inv → s.regs.st = .collect → d = 0x0000) ∧
    (s.Inv → s.regs.st = .error → s.regs.err = .fatal .invalidBitLength → d = 0x0047) ∧
    (s.Inv → s.regs.st = .error → s.regs.err = .fatal .overflow → d = 0x0057))

/-- R165: RDINFO responds with the selected count, in every state, and changes nothing else; KEYBITS and CSBITS read 0
before SPLIT and after OVERFLOW; a word of its opcode with `cmd[10:2]` not 0 is ILLEGAL. -/
def Obligations.RdinfoEffect : Prop :=
  (encode (.rdinfo .wordCount) = 0x3000 ∧ encode (.rdinfo .totalBits) = 0x3001 ∧
    encode (.rdinfo .keyBits) = 0x3002 ∧ encode (.rdinfo .checkSumBits) = 0x3003) ∧
  (∀ (s : State) (sel : InfoSel), ∃ d : Word, exec (.rdinfo sel) s = .next { s with rsp := some ⟨true, d⟩ } ∧
    d.toNat = (match sel with
      | .wordCount => s.regs.wcount.toNat
      | .totalBits => 11 * s.regs.wcount.toNat
      | .keyBits => s.regs.keybits.toNat
      | .checkSumBits => s.regs.csbits.toNat) ∧
    (s.Inv → s.regs.st = .collect ∨ s.regs.err = .fatal .overflow → sel = .keyBits ∨ sel = .checkSumBits → d = 0)) ∧
  (∀ w : Word, w &&& 0xF800 = 0x3000 → w &&& 0x07FC ≠ 0 → ∃ e, decode w = .illegal e)

/-- R122: RDBYTE, all its cases: BAD_STATE in COLLECT and ERROR, BAD_INDEX past the entropy, else entropy byte `k`, whose
bit `7 - b` is stream bit `8k + b`; nothing but the response changes. -/
def Obligations.RdbyteEffect : Prop :=
  (∀ k : Opnd, encode (.rdbyte k) = 0x3800 ||| k.setWidth 16) ∧
  (∀ (k : Opnd) (s : State), s.regs.st = .collect ∨ s.regs.st = .error →
    exec (.rdbyte k) s = .next { s with rsp := some ⟨false, 2⟩ }) ∧
  (∀ (k : Opnd) (s : State), s.regs.st = .split ∨ s.regs.st = .vwait ∨ s.regs.st = .done →
    s.regs.keybits.toNat / 8 ≤ k.toNat → exec (.rdbyte k) s = .next { s with rsp := some ⟨false, 3⟩ }) ∧
  (∀ (k : Opnd) (s : State), s.regs.st = .split ∨ s.regs.st = .vwait ∨ s.regs.st = .done →
    k.toNat < s.regs.keybits.toNat / 8 →
    ∃ d : Word, exec (.rdbyte k) s = .next { s with rsp := some ⟨true, d⟩ } ∧ d.toNat < 256 ∧
      ∀ b, b < 8 → d.getLsbD (7 - b) = bufBit s.regs.buf (8 * k.toNat + b))

/-- R123: RDCS, all its cases: BAD_STATE in COLLECT and ERROR, BAD_INDEX past the last chunk, else checksum bits `8j`
and on, left-aligned, 0 past CSBITS; nothing but the response changes. -/
def Obligations.RdcsEffect : Prop :=
  (∀ j : Opnd, encode (.rdcs j) = 0x4000 ||| j.setWidth 16) ∧
  (∀ (j : Opnd) (s : State), s.regs.st = .collect ∨ s.regs.st = .error →
    exec (.rdcs j) s = .next { s with rsp := some ⟨false, 2⟩ }) ∧
  (∀ (j : Opnd) (s : State), s.regs.st = .split ∨ s.regs.st = .vwait ∨ s.regs.st = .done →
    s.regs.csbits.toNat ≤ 8 * j.toNat → exec (.rdcs j) s = .next { s with rsp := some ⟨false, 3⟩ }) ∧
  (∀ (j : Opnd) (s : State), s.regs.st = .split ∨ s.regs.st = .vwait ∨ s.regs.st = .done →
    8 * j.toNat < s.regs.csbits.toNat →
    ∃ d : Word, exec (.rdcs j) s = .next { s with rsp := some ⟨true, d⟩ } ∧ d.toNat < 256 ∧
      ∀ b, b < 8 → d.getLsbD (7 - b) =
        if 8 * j.toNat + b < s.regs.csbits.toNat
        then bufBit s.regs.buf (s.regs.keybits.toNat + (8 * j.toNat + b)) else false)

/-- R32, R34, R160: what no command touches, which commands touch the request channel and the verdict, and that NOP and
the four reads change nothing but the response. -/
def Obligations.FrameOfEveryCommand : Prop :=
  ∀ (i : Instr) (s t : State), exec i s = .next t →
    (t.maxWords = s.maxWords ∧ t.rst = s.rst ∧ t.cmd = s.cmd ∧ t.stub = s.stub ∧ t.vrsp = s.vrsp ∧
      t.agenda = s.agenda) ∧
    (i ≠ .verify → t.vreq = s.vreq) ∧
    (i ≠ .clear → t.regs.verdict = s.regs.verdict) ∧
    ((i = .nop ∨ i = .rdstat ∨ (∃ sel, i = .rdinfo sel) ∨ (∃ k, i = .rdbyte k) ∨ (∃ j, i = .rdcs j)) →
      t = { s with rsp := t.rsp })

/-- R57: NOP and the four reads can be repeated; the second run gives the same response and the same state. -/
def Obligations.ReadsAreRepeatable : Prop :=
  ∀ (i : Instr) (s : State),
    (i = .nop ∨ i = .rdstat ∨ (∃ sel, i = .rdinfo sel) ∨ (∃ k, i = .rdbyte k) ∨ (∃ j, i = .rdcs j)) →
      ∃ r : Response, exec i s = .next { s with rsp := some r } ∧
        exec i { s with rsp := some r } = .next { s with rsp := some r }

/- ---- Result codes, rejects, fatal errors ---- -/

/-- The BAD_STATE entries of R187's table: true where the table says 2. -/
def badStateEntry : Instr → Session → Bool
  | .nop, _ => false
  | .clear, st => st == .vwait
  | .push _, st => st != .collect
  | .split, st => st != .collect
  | .verify, st => st != .split
  | .rdstat, _ => false
  | .rdinfo _, _ => false
  | .rdbyte _, st => st == .collect || st == .error
  | .rdcs _, st => st == .collect || st == .error

/-- R185, R187, R189: the result code of every command in every state: BAD_STATE by the table, then the command's own
check, and OK exactly where no check fails. -/
def Obligations.ResultCodesByStateThenOwnCheck : Prop :=
  ∀ (i : Instr) (s : State), ∃ t r, exec i s = .next t ∧ t.rsp = some r ∧
    (r.ok = false → r.data = 2 ∨ r.data = 3 ∨ r.data = 4 ∨ r.data = 5) ∧
    (r = ⟨false, 2⟩ ↔ badStateEntry i s.regs.st = true) ∧
    (r = ⟨false, 3⟩ ↔ badStateEntry i s.regs.st = false ∧
      ((∃ k, i = .rdbyte k ∧ s.regs.keybits.toNat / 8 ≤ k.toNat) ∨
        (∃ j, i = .rdcs j ∧ s.regs.csbits.toNat ≤ 8 * j.toNat))) ∧
    (r = ⟨false, 4⟩ ↔ badStateEntry i s.regs.st = false ∧ i = .split ∧ s.regs.wcount.toNat % 3 ≠ 0) ∧
    (r = ⟨false, 5⟩ ↔ badStateEntry i s.regs.st = false ∧ (∃ idx, i = .push idx) ∧
      s.regs.wcount.toNat = s.maxWords)

/-- R186: a reject, of a command or of an ILLEGAL word, changes nothing apart from its response (and, for the step, that
the word has been accepted and the move is over). -/
def Obligations.RejectChangesNothing : Prop :=
  (∀ (i : Instr) (s t : State) (d : Word), exec i s = .next t → t.rsp = some ⟨false, d⟩ → d.toNat ≤ 3 →
    t = { s with rsp := some ⟨false, d⟩ }) ∧
  (∀ (s : State) (w : Word) (e : IllegalWord) (ms : List Move),
    s.agenda = .perform :: ms → s.rst = false → s.cmd = some w → decode w = .illegal e →
      step s = .next { s with agenda := ms, cmd := none, rsp := some ⟨false, 1⟩ })

/-- R188: the fatal entry: ERR takes the code, the state is ERROR, the counts a failed SPLIT wrote stand, BUF, WCOUNT and
VERDICT keep their values, and no second fatal code replaces the first. -/
def Obligations.FatalErrorEntry : Prop :=
  (∀ (i : Instr) (s t : State) (d : Word), exec i s = .next t → t.rsp = some ⟨false, d⟩ → 4 ≤ d.toNat →
    (d = 4 ∨ d = 5) ∧
    t = { s with
          regs := { s.regs with keybits := t.regs.keybits, csbits := t.regs.csbits, st := .error,
                                err := if d = 4 then .fatal .invalidBitLength else .fatal .overflow },
          rsp := some ⟨false, d⟩ } ∧
    (d = 5 → t.regs.keybits = s.regs.keybits ∧ t.regs.csbits = s.regs.csbits) ∧
    (d = 4 → t.regs.csbits.toNat = 11 * s.regs.wcount.toNat / 33 ∧
      t.regs.keybits.toNat = 11 * s.regs.wcount.toNat - 11 * s.regs.wcount.toNat / 33) ∧
    (s.Inv → t.regs.verdict = .none)) ∧
  (∀ (s : State) (c : FatalCode), s.regs.st = .error →
    s.fatal c = { s with rsp := some ⟨false, match c with | .invalidBitLength => 4 | .overflow => 5⟩ })

/-- R190: in ERROR no step but a CLEAR or a reset changes a register; NOP and CLEAR respond (1, 0), RDSTAT the status word
and RDINFO the selected count, and every other command is BAD_STATE. So nothing but status and counts is given out. -/
def Obligations.ErrorIsSticky : Prop :=
  ∀ s t : State, s.regs.st = .error → step s = .next t →
    (¬ s.performs .clear → ¬ s.resets → t.regs = s.regs) ∧
    (s.performs .nop ∨ s.performs .clear → t.rsp = some ⟨true, 0⟩) ∧
    (s.performs .rdstat → t.rsp = some ⟨true, statusWord s.regs⟩) ∧
    (∀ sel, s.performs (.rdinfo sel) → t.rsp = some ⟨true, infoValue s.regs sel⟩) ∧
    (∀ i, s.performs i → i ≠ .nop → i ≠ .rdstat → (∀ sel, i ≠ .rdinfo sel) → i ≠ .clear →
      t.rsp = some ⟨false, 2⟩)

/-- R122, R123, R190: in COLLECT and in ERROR no response depends on the buffer: two states that differ in BUF only give
the same response to every command. -/
def Obligations.NoBufferBitLeavesWithoutASplit : Prop :=
  ∀ (i : Instr) (s : State) (buf' : List Bool), s.regs.st = .collect ∨ s.regs.st = .error →
    ∃ t t', exec i s = .next t ∧ exec i { s with regs := { s.regs with buf := buf' } } = .next t' ∧ t'.rsp = t.rsp

/- ---- Whole-machine rules ---- -/

/-- R7, R210: the reset state of every legal build is sound, and this hardware's reset state is that of 24 words. -/
def Obligations.ResetStatesAreSound : Prop :=
  (∀ n, 1 ≤ n → n ≤ 768 → (State.resetOf n).Inv) ∧ State.reset = State.resetOf 24

/-- Every step keeps a sound state sound: R23 and R33, and with them the request of R34, R43 and R141, an answer that is
`Verify` of it (R144, R146), a recorded verdict that is too (R142), and the reset values while `rst` = 1, which are the
model's choice of log entry 9. -/
def Obligations.EveryStepKeepsTheInvariants : Prop := ∀ s t : State, s.Inv → step s = .next t → t.Inv

/-- R25: the session state changes exactly by the listed transitions, each by the command or event the rule names. That
it changes when `rst` rises, as well as when it falls, is the model's choice of log entry 9. -/
def Obligations.SessionStateChangesOnlyAsListed : Prop :=
  ∀ s t : State, step s = .next t → t.regs.st ≠ s.regs.st →
    (s.regs.st = .collect ∧ t.regs.st = .split ∧ s.performs .split) ∨
    (s.regs.st = .collect ∧ t.regs.st = .error ∧ (s.performs .split ∨ ∃ idx, s.performs (.push idx))) ∨
    (s.regs.st = .split ∧ t.regs.st = .vwait ∧ s.performs .verify) ∨
    (s.regs.st = .vwait ∧ t.regs.st = .done ∧ s.moves .takeAnswer) ∨
    (s.regs.st ≠ .vwait ∧ t.regs.st = .collect ∧ s.performs .clear) ∨
    (t.regs.st = .collect ∧ s.resets)

/-- R22, R24 to R29, R32: which steps may write each register; and no step writes `MAX_WORDS` (log entry 1). That a rising
`rst` writes the registers is the model's choice of log entry 9. -/
def Obligations.RegistersAreWrittenOnlyByTheirWriters : Prop :=
  ∀ s t : State, step s = .next t →
    t.maxWords = s.maxWords ∧
    (s.resets ∨ s.performs .clear ∨
      ((t.regs.buf ≠ s.regs.buf → ∃ idx, s.performs (.push idx)) ∧
       (t.regs.wcount ≠ s.regs.wcount → ∃ idx, s.performs (.push idx)) ∧
       (t.regs.st ≠ s.regs.st → (∃ idx, s.performs (.push idx)) ∨ s.performs .split ∨ s.performs .verify ∨
         (s.moves .takeAnswer ∧ s.regs.st = .vwait)) ∧
       (t.regs.keybits ≠ s.regs.keybits → s.performs .split) ∧
       (t.regs.csbits ≠ s.regs.csbits → s.performs .split) ∧
       (t.regs.err ≠ s.regs.err → s.performs .split ∨ ∃ idx, s.performs (.push idx)) ∧
       (t.regs.verdict ≠ s.regs.verdict → s.moves .takeAnswer ∧ s.regs.st = .vwait)))

/-- R60: once the session is DONE, verdict, entropy and checksum stay as they are until CLEAR or reset. -/
def Obligations.VerdictStaysUntilClearOrReset : Prop :=
  ∀ s t : State, s.regs.st = .done → step s = .next t → ¬ s.performs .clear → ¬ s.resets →
    t.regs.st = .done ∧ t.regs.verdict = s.regs.verdict ∧ entropyBytes t.regs = entropyBytes s.regs ∧
      checksumBits t.regs = checksumBits s.regs

/- ---- The verifier ---- -/

/-- R142, R143: a stub response is recorded in VWAIT and discarded in every other state; nothing is sent to the host. -/
def Obligations.StubResponseHandling : Prop :=
  ∀ (s : State) (m : Bool) (ms : List Move),
    s.agenda = .takeAnswer :: ms → s.rst = false → s.vrsp = some m →
      (s.regs.st = .vwait → step s = .next
        { s with agenda := ms, rsp := none, vrsp := none,
                 regs := { s.regs with verdict := if m = true then .matched else .mismatched, st := .done } }) ∧
      (s.regs.st ≠ .vwait → step s = .next { s with agenda := ms, rsp := none, vrsp := none })

/-- R144: an answer appears only as the stub's, of a request it holds, with `Verify` of its payload, and the request is
then gone; a request is held only after its acceptance from the channel; the stub's moves change no register. -/
def Obligations.StubProtocol : Prop :=
  ∀ s t : State, step s = .next t →
    (∀ m, t.vrsp = some m → s.vrsp = some m ∨
      (s.moves .stubAnswer ∧ t.stub = none ∧ ∃ q, s.stub = some q ∧ m = verdictOf q.msg q.cs)) ∧
    (∀ q, t.stub = some q → s.stub = some q ∨ (s.moves .stubAccept ∧ s.vreq = some q ∧ t.vreq = none)) ∧
    (s.moves .stubAccept ∨ s.moves .stubAnswer → t.regs = s.regs)

/-- R163: in a sound state a CLEAR that succeeds leaves no request on its way, and a request on its way goes on until
the BPS takes its answer or reset abandons it. -/
def Obligations.OutstandingRequestEndsByAnswerOrReset : Prop :=
  (∀ s t : State, s.Inv → exec .clear s = .next t → t.rsp = some ⟨true, 0⟩ → t.inFlight = 0) ∧
  (∀ s t : State, s.Inv → s.regs.st = .vwait → step s = .next t → ¬ s.resets →
    t.inFlight = 1 ∧ t.regs = s.regs ∨ t.inFlight = 0 ∧ s.moves .takeAnswer ∧ t.regs.st = .done)

/-- R146: `Verify` answers Match exactly when every checksum bit equals its digest bit, bit `7 - i mod 8` of byte
`i div 8`. -/
def Obligations.VerifyComparesEveryBit : Prop :=
  ∀ (msg : List Byte) (cbits : List Bool), cbits.length ≤ 256 →
    (verdictOf msg cbits = true ↔
      ∀ n (h : n < cbits.length) (h' : n / 8 < 32), cbits[n] = ((Config.H msg)[n / 8]).getLsbD (7 - n % 8))

/-- R147: as integers, `Verify` answers Match exactly when the checksum is the leading bits of the digest; with no
checksum bits the answer is Match, so a session of zero words verifies as MATCH. -/
def Obligations.VerifyAsLeadingBits : Prop :=
  (∀ (msg : List Byte) (cbits : List Bool), cbits.length ≤ 256 →
    (verdictOf msg cbits = true ↔
      msbFirst cbits.length (fun n => cbits.getD n false) =
        (Config.H msg).toList.foldl (fun d b => 256 * d + b.toNat) 0 / 2 ^ (256 - cbits.length))) ∧
  (∀ msg, verdictOf msg [] = true) ∧
  (∀ s : State, s.Inv → s.regs.st = .done → s.regs.wcount = 0 → s.regs.verdict = .matched)

/- ---- Reset ---- -/

/-- R210, R211: `rst` rising and falling takes every state to the reset state of its build, an outstanding request gone;
only what the host has offered (log entry 6) and what is planned next remain. -/
def Obligations.ResetFromEveryState : Prop :=
  ∀ (s : State) (ms : List Move),
    steps 2 (s.plan (.assertReset :: .releaseReset :: ms)) =
      .next { State.resetOf s.maxWords with cmd := s.cmd, agenda := ms }

/-- R210, item O9: a command accepted before a reset whose response was not yet sent gets no response and has left the
channel; the state is the one that performing the command and then raising reset gives, whatever the word is. That the
registers have their reset values when `rst` has risen is the model's choice of log entry 9. -/
def Obligations.CommandLostToReset : Prop :=
  ∀ (s : State) (w : Word) (ms : List Move), s.rst = false → s.cmd = some w →
    step (s.plan (.loseToReset :: ms)) =
      .next { State.resetOf s.maxWords with rst := true, agenda := ms } ∧
    steps 2 (s.plan (.perform :: .assertReset :: ms)) = step (s.plan (.loseToReset :: ms))

/-- R45: while `rst` is 1 no command is accepted, no response sent, no request issued, accepted or answered, a stub
response taken is discarded, and the registers change to nothing but their reset values (log entry 9). That an offered
word stays offered, also when `rst` falls, is the model's choice of log entry 6. -/
def Obligations.NothingHappensWhileResetIsAsserted : Prop :=
  ∀ s t : State, s.rst = true → step s = .next t →
    t.rsp = none ∧ (∀ w, s.cmd = some w → t.cmd = some w) ∧
    (t.vreq = s.vreq ∨ t.vreq = none) ∧ (t.stub = s.stub ∨ t.stub = none) ∧ (t.vrsp = s.vrsp ∨ t.vrsp = none) ∧
    (t.regs = s.regs ∨ t.regs = Regs.reset s.maxWords) ∧
    (s.moves .takeAnswer → t.vrsp = none ∧ t.regs = s.regs) ∧
    (t.rst = false → t.regs = Regs.reset s.maxWords ∧ t.inFlight = 0)

/- ---- Sequences of commands ---- -/

/-- R101: from an empty session, pushing a list of at most `MAX_WORDS` indices succeeds, and leaves exactly their bits in
order, most significant first, with no padding. -/
def Obligations.PackingAList : Prop :=
  ∀ (s : State) (ws : List Opnd), s.Inv → s.canSend → s.freshSession → ws.length ≤ s.maxWords →
    ∃ t, sendCommands (ws.map .push) s = .next t ∧ (ws ≠ [] → t.rsp = some ⟨true, 0⟩) ∧
      t.regs = { Regs.reset s.maxWords with buf := t.regs.buf, wcount := t.regs.wcount } ∧
      t.regs.wcount.toNat = ws.length ∧ t.regs.buf.length = 11 * s.maxWords ∧
      (∀ j n, j < ws.length → n ≤ 10 → bufBit t.regs.buf (11 * j + n) = (ws.getD j 0).getLsbD (10 - n)) ∧
      (∀ p, 11 * ws.length ≤ p → p < 11 * s.maxWords → bufBit t.regs.buf p = false)

/-- R100, R190, D31: pushing more than `MAX_WORDS` indices ends in ERROR with OVERFLOW and the first `MAX_WORDS` of them
counted. -/
def Obligations.TooManyWordsOverflow : Prop :=
  ∀ (s : State) (ws : List Opnd), s.Inv → s.canSend → s.freshSession → s.maxWords < ws.length →
    ∃ t, sendCommands (ws.map .push) s = .next t ∧ t.regs.st = .error ∧ t.regs.err = .fatal .overflow ∧
      t.regs.wcount.toNat = s.maxWords ∧ t.regs.keybits = 0 ∧ t.regs.csbits = 0 ∧
      (t.rsp = some ⟨false, 5⟩ ↔ ws.length = s.maxWords + 1)

/-- The bit string `E ++ c` of R124: the bits of the bytes `E`, then those of the `q`-bit value `c`, all most significant
first. -/
def entropyThenChecksum (q : Nat) (E : List Byte) (c : BitVec q) (p : Nat) : Bool :=
  if p < 32 * q then (E.getD (p / 8) 0).getLsbD (7 - p % 8) else c.getLsbD (q - 1 - (p - 32 * q))

/-- R124: the round trip: pushing the 11-bit groups of `E ++ c` and splitting gives back every byte of `E` by RDBYTE and
every bit of `c` as checksum bit. -/
def Obligations.EntropyRoundTrip : Prop :=
  ∀ (s : State) (q : Nat) (E : List Byte) (c : BitVec q), s.Inv → s.canSend → s.freshSession →
    E.length = 4 * q → 3 * q ≤ s.maxWords →
    ∃ t, sendCommands
        (((List.range (3 * q)).map fun j =>
          Instr.push (BitVec.ofNat 11 (msbFirst 11 fun n => entropyThenChecksum q E c (11 * j + n)))) ++ [.split]) s
          = .next t ∧
      t.rsp = some ⟨true, 0⟩ ∧ t.regs.keybits.toNat = 32 * q ∧ t.regs.csbits.toNat = q ∧
      (∀ k, k < 4 * q → exec (.rdbyte (BitVec.ofNat 11 k)) t =
        .next { t with rsp := some ⟨true, (E.getD k 0).setWidth 16⟩ }) ∧
      (∀ n, n < q → checksumBit t.regs n = c.getLsbD (q - 1 - n))

/-- R51: seen as integers, after a valid split the entropy is `V div 2^CSBITS` and the checksum `V mod 2^CSBITS`, for `V`
the concatenation of the pushed indices. -/
def Obligations.EntropyAndChecksumAsIntegers : Prop :=
  ∀ (s : State) (ws : List Opnd) (V : Nat), s.Inv → s.canSend → s.freshSession →
    ws.length % 3 = 0 → ws.length ≤ s.maxWords →
    V = ((List.range ws.length).map fun j => (ws.getD j 0).toNat * 2 ^ (11 * (ws.length - 1 - j))).sum →
    ∃ t, sendCommands (ws.map .push ++ [.split]) s = .next t ∧ t.regs.st = .split ∧
      ((List.range (entropyLen t.regs)).map fun k =>
        (entropyByte t.regs k).toNat * 2 ^ (8 * (entropyLen t.regs - 1 - k))).sum = V / 2 ^ t.regs.csbits.toNat ∧
      msbFirst t.regs.csbits.toNat (checksumBit t.regs) = V % 2 ^ t.regs.csbits.toNat

/-- R125: with at most 11 checksum bits they are the low bits of the last index and its high bits end the entropy; a
last index that differs only in the low bits changes the checksum alone, one that differs in a high bit changes the
entropy. -/
def Obligations.ChecksumSitsInTheLastIndex : Prop :=
  ∀ (s : State) (ws : List Opnd) (x y : Opnd), s.Inv → s.canSend → s.freshSession →
    (ws.length + 1) % 3 = 0 → ws.length + 1 ≤ 33 → ws.length + 1 ≤ s.maxWords →
    ∃ t u CS, sendCommands ((ws ++ [x]).map .push ++ [.split]) s = .next t ∧
      sendCommands ((ws ++ [y]).map .push ++ [.split]) s = .next u ∧
      CS = t.regs.csbits.toNat ∧ CS = u.regs.csbits.toNat ∧ CS ≤ 11 ∧
      (∀ n, n < CS → checksumBit t.regs n = x.getLsbD (CS - 1 - n)) ∧
      (∀ n, n < 11 - CS → bufBit t.regs.buf (t.regs.keybits.toNat - (11 - CS) + n) = x.getLsbD (10 - n)) ∧
      ((∀ b, CS ≤ b → x.getLsbD b = y.getLsbD b) →
        entropyBytes u.regs = entropyBytes t.regs ∧ (x ≠ y → checksumBits u.regs ≠ checksumBits t.regs)) ∧
      ((∃ b, CS ≤ b ∧ x.getLsbD b ≠ y.getLsbD b) → entropyBytes u.regs ≠ entropyBytes t.regs)

/-- R149 (the narrow property of C1): flipping the last bit of the last word of a session that verifies leaves the entropy unchanged and makes
`Verify` answer Mismatch, whatever `H` is. -/
def Obligations.FlippedLastBitIsAMismatch : Prop :=
  ∀ (s : State) (ws : List Opnd) (x : Opnd), s.Inv → s.canSend → s.freshSession →
    (ws.length + 1) % 3 = 0 → ws.length + 1 ≤ 33 → ws.length + 1 ≤ s.maxWords →
    ∃ t u, sendCommands ((ws ++ [x]).map .push ++ [.split]) s = .next t ∧
      sendCommands ((ws ++ [x ^^^ 1]).map .push ++ [.split]) s = .next u ∧
      entropyBytes u.regs = entropyBytes t.regs ∧
      (verdictOf (entropyBytes t.regs) (checksumBits t.regs) = true →
        verdictOf (entropyBytes u.regs) (checksumBits u.regs) = false)

/-- R81, R214, R215, R219: after VERIFY, polling ends once the stub has accepted and answered and its answer is taken,
however many polls came before, and the last poll shows the verdict. The moves of the stub are the fairness premise. -/
def Obligations.PollingEndsWithTheVerdict : Prop :=
  ∀ (s : State) (q : Request) (polls : Nat), s.Inv → s.canSend → s.regs.st = .vwait → s.vreq = some q →
    ∃ t, waitVerdict (List.replicate polls [] ++ [[.stubAccept, .stubAnswer, .takeAnswer]]) s = .next t ∧
      t.regs = { s.regs with st := .done, verdict := Verdict.ofAnswer (verdictOf q.msg q.cs) } ∧
      t.rsp = some ⟨true, if verdictOf q.msg q.cs = true then 0x0103 else 0x0203⟩

/-- R214, R221: the whole decode of a list of indices whose number is a multiple of 3, from any session but one that
waits: DECODE, then WAITV with the stub's moves, ends DONE with the indices' bits in the buffer, the counts of R111, the
verdict `Verify` gives for the session's entropy and checksum, and that result. -/
def Obligations.WholeDecodeOfAValidLength : Prop :=
  ∀ (s : State) (ws : List Opnd) (q polls : Nat), s.Inv → s.canSend → s.regs.st ≠ .vwait →
    ws.length = 3 * q → ws.length ≤ s.maxWords →
    ∃ t u, sendPseudo (.decode (ws.map BitVec.toNat)) s = some (.next t) ∧ t.rsp = some ⟨true, 0⟩ ∧ t.regs.st = .vwait ∧
      waitVerdict (List.replicate polls [] ++ [[.stubAccept, .stubAnswer, .takeAnswer]]) t = .next u ∧
      (∀ j n, j < ws.length → n ≤ 10 → bufBit u.regs.buf (11 * j + n) = (ws.getD j 0).getLsbD (10 - n)) ∧
      sessionResult u.regs = some (.decoded (entropyBytes u.regs) (checksumBits u.regs)
        (Verdict.ofAnswer (verdictOf (entropyBytes u.regs) (checksumBits u.regs))) ⟨3 * q, 32 * q, q⟩)

/-- R110, R188, R221, C2: DECODE of a list whose number is not a multiple of 3 ends in ERROR with code 4 and the counts
kept, and its result is that error. -/
def Obligations.WholeDecodeOfAnInvalidLength : Prop :=
  ∀ (s : State) (ws : List Opnd) (T : Nat), s.Inv → s.canSend → s.regs.st ≠ .vwait →
    ws.length % 3 ≠ 0 → ws.length ≤ s.maxWords → T = 11 * ws.length →
    ∃ t, sendPseudo (.decode (ws.map BitVec.toNat)) s = some (.next t) ∧
      sessionResult t.regs = some (.failed (.fatal .invalidBitLength) ⟨ws.length, T - T / 33, T / 33⟩)
end

