-- ==== Sys2Proof/Laws/State.lean ====
section
/-! SUPPORT. What each update of State and Regs leaves in each field, so that no proof unfolds a record update. -/

namespace Sys2Proof.Machine

open Sys2Proof

section RespondFields
variable (s : State) (ok : Bool) (d : Word)
@[simp] theorem State.respond_maxWords : (s.respond ok d).maxWords = s.maxWords := rfl
@[simp] theorem State.respond_regs : (s.respond ok d).regs = s.regs := rfl
@[simp] theorem State.respond_rst : (s.respond ok d).rst = s.rst := rfl
@[simp] theorem State.respond_cmd : (s.respond ok d).cmd = s.cmd := rfl
@[simp] theorem State.respond_rsp : (s.respond ok d).rsp = some ⟨ok, d⟩ := rfl
@[simp] theorem State.respond_vreq : (s.respond ok d).vreq = s.vreq := rfl
@[simp] theorem State.respond_stub : (s.respond ok d).stub = s.stub := rfl
@[simp] theorem State.respond_vrsp : (s.respond ok d).vrsp = s.vrsp := rfl
@[simp] theorem State.respond_agenda : (s.respond ok d).agenda = s.agenda := rfl
end RespondFields

section RejectFields
variable (s : State) (c : RejectCode)
@[simp] theorem State.reject_maxWords : (s.reject c).maxWords = s.maxWords := rfl
@[simp] theorem State.reject_regs : (s.reject c).regs = s.regs := rfl
@[simp] theorem State.reject_rst : (s.reject c).rst = s.rst := rfl
@[simp] theorem State.reject_cmd : (s.reject c).cmd = s.cmd := rfl
@[simp] theorem State.reject_rsp : (s.reject c).rsp = some ⟨false, c.code.setWidth 16⟩ := rfl
@[simp] theorem State.reject_vreq : (s.reject c).vreq = s.vreq := rfl
@[simp] theorem State.reject_stub : (s.reject c).stub = s.stub := rfl
@[simp] theorem State.reject_vrsp : (s.reject c).vrsp = s.vrsp := rfl
@[simp] theorem State.reject_agenda : (s.reject c).agenda = s.agenda := rfl
end RejectFields

section FatalFields
variable (s : State) (c : FatalCode)
@[simp] theorem State.fatal_maxWords : (s.fatal c).maxWords = s.maxWords := rfl
@[simp] theorem State.fatal_regs : (s.fatal c).regs = s.regs.enterError c := rfl
@[simp] theorem State.fatal_rst : (s.fatal c).rst = s.rst := rfl
@[simp] theorem State.fatal_cmd : (s.fatal c).cmd = s.cmd := rfl
@[simp] theorem State.fatal_rsp : (s.fatal c).rsp = some ⟨false, c.code.setWidth 16⟩ := rfl
@[simp] theorem State.fatal_vreq : (s.fatal c).vreq = s.vreq := rfl
@[simp] theorem State.fatal_stub : (s.fatal c).stub = s.stub := rfl
@[simp] theorem State.fatal_vrsp : (s.fatal c).vrsp = s.vrsp := rfl
@[simp] theorem State.fatal_agenda : (s.fatal c).agenda = s.agenda := rfl
end FatalFields

section WithRegsFields
variable (s : State) (r : Regs)
@[simp] theorem State.withRegs_maxWords : (s.withRegs r).maxWords = s.maxWords := rfl
@[simp] theorem State.withRegs_regs : (s.withRegs r).regs = r := rfl
@[simp] theorem State.withRegs_rst : (s.withRegs r).rst = s.rst := rfl
@[simp] theorem State.withRegs_cmd : (s.withRegs r).cmd = s.cmd := rfl
@[simp] theorem State.withRegs_rsp : (s.withRegs r).rsp = s.rsp := rfl
@[simp] theorem State.withRegs_vreq : (s.withRegs r).vreq = s.vreq := rfl
@[simp] theorem State.withRegs_stub : (s.withRegs r).stub = s.stub := rfl
@[simp] theorem State.withRegs_vrsp : (s.withRegs r).vrsp = s.vrsp := rfl
@[simp] theorem State.withRegs_agenda : (s.withRegs r).agenda = s.agenda := rfl
end WithRegsFields

section PlaceRequestFields
variable (s : State)
@[simp] theorem State.placeRequest_maxWords : s.placeRequest.maxWords = s.maxWords := rfl
@[simp] theorem State.placeRequest_regs : s.placeRequest.regs = s.regs := rfl
@[simp] theorem State.placeRequest_rst : s.placeRequest.rst = s.rst := rfl
@[simp] theorem State.placeRequest_cmd : s.placeRequest.cmd = s.cmd := rfl
@[simp] theorem State.placeRequest_rsp : s.placeRequest.rsp = s.rsp := rfl
@[simp] theorem State.placeRequest_vreq : s.placeRequest.vreq = some (requestOf s.regs) := rfl
@[simp] theorem State.placeRequest_stub : s.placeRequest.stub = s.stub := rfl
@[simp] theorem State.placeRequest_vrsp : s.placeRequest.vrsp = s.vrsp := rfl
@[simp] theorem State.placeRequest_agenda : s.placeRequest.agenda = s.agenda := rfl
end PlaceRequestFields

section ClearSessionFields
variable (s : State)
@[simp] theorem State.clearSession_maxWords : s.clearSession.maxWords = s.maxWords := rfl
@[simp] theorem State.clearSession_regs : s.clearSession.regs = Regs.reset s.maxWords := rfl
@[simp] theorem State.clearSession_rst : s.clearSession.rst = s.rst := rfl
@[simp] theorem State.clearSession_cmd : s.clearSession.cmd = s.cmd := rfl
@[simp] theorem State.clearSession_rsp : s.clearSession.rsp = s.rsp := rfl
@[simp] theorem State.clearSession_vreq : s.clearSession.vreq = s.vreq := rfl
@[simp] theorem State.clearSession_stub : s.clearSession.stub = s.stub := rfl
@[simp] theorem State.clearSession_vrsp : s.clearSession.vrsp = s.vrsp := rfl
@[simp] theorem State.clearSession_agenda : s.clearSession.agenda = s.agenda := rfl
end ClearSessionFields

section DropRequestFields
variable (s : State)
@[simp] theorem State.dropRequest_maxWords : s.dropRequest.maxWords = s.maxWords := rfl
@[simp] theorem State.dropRequest_regs : s.dropRequest.regs = s.regs := rfl
@[simp] theorem State.dropRequest_rst : s.dropRequest.rst = s.rst := rfl
@[simp] theorem State.dropRequest_cmd : s.dropRequest.cmd = s.cmd := rfl
@[simp] theorem State.dropRequest_rsp : s.dropRequest.rsp = s.rsp := rfl
@[simp] theorem State.dropRequest_vreq : s.dropRequest.vreq = none := rfl
@[simp] theorem State.dropRequest_stub : s.dropRequest.stub = none := rfl
@[simp] theorem State.dropRequest_vrsp : s.dropRequest.vrsp = none := rfl
@[simp] theorem State.dropRequest_agenda : s.dropRequest.agenda = s.agenda := rfl
end DropRequestFields

section BeginFields
variable (s : State)
@[simp] theorem State.begin_maxWords : s.begin.maxWords = s.maxWords := rfl
@[simp] theorem State.begin_regs : s.begin.regs = s.regs := rfl
@[simp] theorem State.begin_rst : s.begin.rst = s.rst := rfl
@[simp] theorem State.begin_cmd : s.begin.cmd = s.cmd := rfl
@[simp] theorem State.begin_rsp : s.begin.rsp = none := rfl
@[simp] theorem State.begin_vreq : s.begin.vreq = s.vreq := rfl
@[simp] theorem State.begin_stub : s.begin.stub = s.stub := rfl
@[simp] theorem State.begin_vrsp : s.begin.vrsp = s.vrsp := rfl
@[simp] theorem State.begin_agenda : s.begin.agenda = s.agenda.tail := rfl
end BeginFields

section AcceptFields
variable (s : State)
@[simp] theorem State.accept_maxWords : s.accept.maxWords = s.maxWords := rfl
@[simp] theorem State.accept_regs : s.accept.regs = s.regs := rfl
@[simp] theorem State.accept_rst : s.accept.rst = s.rst := rfl
@[simp] theorem State.accept_cmd : s.accept.cmd = none := rfl
@[simp] theorem State.accept_rsp : s.accept.rsp = s.rsp := rfl
@[simp] theorem State.accept_vreq : s.accept.vreq = s.vreq := rfl
@[simp] theorem State.accept_stub : s.accept.stub = s.stub := rfl
@[simp] theorem State.accept_vrsp : s.accept.vrsp = s.vrsp := rfl
@[simp] theorem State.accept_agenda : s.accept.agenda = s.agenda := rfl
end AcceptFields

section PlaceWordFields
variable (s : State) (w : Word)
@[simp] theorem State.placeWord_maxWords : (s.placeWord w).maxWords = s.maxWords := rfl
@[simp] theorem State.placeWord_regs : (s.placeWord w).regs = s.regs := rfl
@[simp] theorem State.placeWord_rst : (s.placeWord w).rst = false := rfl
@[simp] theorem State.placeWord_cmd : (s.placeWord w).cmd = some w := rfl
@[simp] theorem State.placeWord_rsp : (s.placeWord w).rsp = s.rsp := rfl
@[simp] theorem State.placeWord_vreq : (s.placeWord w).vreq = s.vreq := rfl
@[simp] theorem State.placeWord_stub : (s.placeWord w).stub = s.stub := rfl
@[simp] theorem State.placeWord_vrsp : (s.placeWord w).vrsp = s.vrsp := rfl
@[simp] theorem State.placeWord_agenda : (s.placeWord w).agenda = .perform :: s.agenda := rfl
end PlaceWordFields

section PlanFields
variable (s : State) (ms : List Move)
@[simp] theorem State.plan_maxWords : (s.plan ms).maxWords = s.maxWords := rfl
@[simp] theorem State.plan_regs : (s.plan ms).regs = s.regs := rfl
@[simp] theorem State.plan_rst : (s.plan ms).rst = s.rst := rfl
@[simp] theorem State.plan_cmd : (s.plan ms).cmd = s.cmd := rfl
@[simp] theorem State.plan_rsp : (s.plan ms).rsp = s.rsp := rfl
@[simp] theorem State.plan_vreq : (s.plan ms).vreq = s.vreq := rfl
@[simp] theorem State.plan_stub : (s.plan ms).stub = s.stub := rfl
@[simp] theorem State.plan_vrsp : (s.plan ms).vrsp = s.vrsp := rfl
@[simp] theorem State.plan_agenda : (s.plan ms).agenda = ms := rfl
end PlanFields

section GotoFields
variable (r : Regs) (v : Session)
@[simp] theorem Regs.goto_buf : (r.goto v).buf = r.buf := rfl
@[simp] theorem Regs.goto_wcount : (r.goto v).wcount = r.wcount := rfl
@[simp] theorem Regs.goto_st : (r.goto v).st = v := rfl
@[simp] theorem Regs.goto_keybits : (r.goto v).keybits = r.keybits := rfl
@[simp] theorem Regs.goto_csbits : (r.goto v).csbits = r.csbits := rfl
@[simp] theorem Regs.goto_err : (r.goto v).err = r.err := rfl
@[simp] theorem Regs.goto_verdict : (r.goto v).verdict = r.verdict := rfl
end GotoFields

section EnterErrorFields
variable (r : Regs) (c : FatalCode)
@[simp] theorem Regs.enterError_buf : (r.enterError c).buf = r.buf := rfl
@[simp] theorem Regs.enterError_wcount : (r.enterError c).wcount = r.wcount := rfl
@[simp] theorem Regs.enterError_st : (r.enterError c).st = .error := rfl
@[simp] theorem Regs.enterError_keybits : (r.enterError c).keybits = r.keybits := rfl
@[simp] theorem Regs.enterError_csbits : (r.enterError c).csbits = r.csbits := rfl
@[simp] theorem Regs.enterError_err : (r.enterError c).err = if r.st = .error then r.err else .fatal c := rfl
@[simp] theorem Regs.enterError_verdict : (r.enterError c).verdict = r.verdict := rfl
end EnterErrorFields

section WriteCountsFields
variable (r : Regs)
@[simp] theorem writeCounts_buf : (writeCounts r).buf = r.buf := rfl
@[simp] theorem writeCounts_wcount : (writeCounts r).wcount = r.wcount := rfl
@[simp] theorem writeCounts_st : (writeCounts r).st = r.st := rfl
@[simp] theorem writeCounts_keybits : (writeCounts r).keybits = BitVec.ofNat 14 (splitKey r) := rfl
@[simp] theorem writeCounts_csbits : (writeCounts r).csbits = BitVec.ofNat 9 (splitChecksum r) := rfl
@[simp] theorem writeCounts_err : (writeCounts r).err = r.err := rfl
@[simp] theorem writeCounts_verdict : (writeCounts r).verdict = r.verdict := rfl
end WriteCountsFields

section PackIndexFields
variable (idx : Opnd) (r : Regs)
@[simp] theorem packIndex_buf : (packIndex idx r).buf = storeBits r.buf (totalBits r) (indexBits idx) := rfl
@[simp] theorem packIndex_wcount : (packIndex idx r).wcount = r.wcount + 1 := rfl
@[simp] theorem packIndex_st : (packIndex idx r).st = r.st := rfl
@[simp] theorem packIndex_keybits : (packIndex idx r).keybits = r.keybits := rfl
@[simp] theorem packIndex_csbits : (packIndex idx r).csbits = r.csbits := rfl
@[simp] theorem packIndex_err : (packIndex idx r).err = r.err := rfl
@[simp] theorem packIndex_verdict : (packIndex idx r).verdict = r.verdict := rfl
end PackIndexFields

section ResetFields
variable (n : Nat)
@[simp] theorem Regs.reset_buf : (Regs.reset n).buf = List.replicate (11 * n) false := rfl
@[simp] theorem Regs.reset_wcount : (Regs.reset n).wcount = 0 := rfl
@[simp] theorem Regs.reset_st : (Regs.reset n).st = .collect := rfl
@[simp] theorem Regs.reset_keybits : (Regs.reset n).keybits = 0 := rfl
@[simp] theorem Regs.reset_csbits : (Regs.reset n).csbits = 0 := rfl
@[simp] theorem Regs.reset_err : (Regs.reset n).err = .none := rfl
@[simp] theorem Regs.reset_verdict : (Regs.reset n).verdict = .none := rfl
@[simp] theorem State.resetOf_maxWords : (State.resetOf n).maxWords = n := rfl
@[simp] theorem State.resetOf_regs : (State.resetOf n).regs = Regs.reset n := rfl
@[simp] theorem State.resetOf_rst : (State.resetOf n).rst = false := rfl
@[simp] theorem State.resetOf_cmd : (State.resetOf n).cmd = none := rfl
@[simp] theorem State.resetOf_rsp : (State.resetOf n).rsp = none := rfl
@[simp] theorem State.resetOf_vreq : (State.resetOf n).vreq = none := rfl
@[simp] theorem State.resetOf_stub : (State.resetOf n).stub = none := rfl
@[simp] theorem State.resetOf_vrsp : (State.resetOf n).vrsp = none := rfl
@[simp] theorem State.resetOf_agenda : (State.resetOf n).agenda = [] := rfl
end ResetFields

end Sys2Proof.Machine
end

