-- ==== Sys2Proof/Laws/Buffer.lean ====
section
/-! SUPPORT. The bit buffer and the numbers read from it: read after write, length, most-significant-first numbers, and
that the counts of a split fit their registers. -/

namespace Sys2Proof.Machine

open Sys2Proof

/-- A position past the end reads the free value. -/
theorem bufBit_of_length_le {buf : List Bool} {p : Nat} (h : buf.length ≤ p) : bufBit buf p = Config.absentBit p := by
  rw [bufBit, List.getD_eq_default _ _ h]

/-- An all-zero buffer reads 0 at each of its positions. -/
theorem bufBit_replicate_false {n p : Nat} (h : p < n) : bufBit (List.replicate n false) p = false := by
  simp [bufBit, List.getD_eq_getElem?_getD, h]

/-- One bit written: it reads back at its position, every other position is as before. -/
theorem bufBit_set (buf : List Bool) (p q : Nat) (b : Bool) :
    bufBit (buf.set p b) q = if p = q ∧ q < buf.length then b else bufBit buf q := by
  simp only [bufBit, List.getD_eq_getElem?_getD, List.getElem?_set]
  by_cases h : p = q
  · subst h
    by_cases hl : p < buf.length
    · simp [hl]
    · simp [hl]
  · simp [h]

@[simp] theorem storeBits_length (buf : List Bool) (p : Nat) (bits : List Bool) :
    (storeBits buf p bits).length = buf.length := by
  induction bits generalizing buf p with
  | nil => rfl
  | cons b bs ih => simp [storeBits, ih]

/-- Read after write for a run of bits (R100's loop). -/
theorem bufBit_storeBits (buf : List Bool) (p : Nat) (bits : List Bool) (q : Nat) :
    bufBit (storeBits buf p bits) q =
      if p ≤ q ∧ q < p + bits.length ∧ q < buf.length then bits.getD (q - p) false else bufBit buf q := by
  induction bits generalizing buf p with
  | nil => simp only [storeBits, List.length_nil]; rw [if_neg (by omega)]
  | cons b bs ih =>
    simp only [storeBits, ih, List.length_set, bufBit_set, List.length_cons]
    by_cases hq : p = q
    · subst hq
      by_cases hl : p < buf.length <;> simp [hl]
    · by_cases hp : p + 1 ≤ q
      · have hs : q - p = (q - (p + 1)) + 1 := by omega
        have h1 : (p ≤ q ∧ q < p + (bs.length + 1) ∧ q < buf.length) ↔
            (p + 1 ≤ q ∧ q < p + 1 + bs.length ∧ q < buf.length) := by omega
        simp only [hq, false_and, if_false, h1, hs, List.getD_cons_succ]
      · rw [if_neg (by omega), if_neg (by omega), if_neg (by omega)]

@[simp] theorem indexBits_length (idx : Opnd) : (indexBits idx).length = 11 := by simp [indexBits]

/-- Bit `t` of a packed index is `idx[10 - t]` (R100). -/
theorem indexBits_getD (idx : Opnd) {t : Nat} (h : t < 11) :
    (indexBits idx).getD t false = idx.getLsbD (10 - t) := by
  simp [indexBits, List.getD_eq_getElem?_getD, h]

/-- The buffer after one index is packed (R100), where the buffer has room for it. -/
theorem bufBit_packIndex (idx : Opnd) (r : Regs) (q : Nat) (hroom : totalBits r + 11 ≤ r.buf.length) :
    bufBit (packIndex idx r).buf q =
      if totalBits r ≤ q ∧ q < totalBits r + 11 then idx.getLsbD (10 - (q - totalBits r)) else bufBit r.buf q := by
  rw [packIndex_buf, bufBit_storeBits]
  by_cases h : totalBits r ≤ q ∧ q < totalBits r + 11
  · rw [if_pos (by simp; omega), if_pos h, indexBits_getD _ (by omega)]
  · rw [if_neg (by simp; omega), if_neg h]

/-- Every buffer operation keeps the buffer's length. -/
@[simp] theorem packIndex_buf_length (idx : Opnd) (r : Regs) : (packIndex idx r).buf.length = r.buf.length := by
  simp

/-- Appending one bit doubles the number and adds the bit. -/
theorem msbFirst_succ (n : Nat) (f : Nat → Bool) : msbFirst (n + 1) f = 2 * msbFirst n f + (f n).toNat := by
  have hmap : (List.range n).map (fun t => (f t).toNat * 2 ^ (n + 1 - 1 - t)) =
      (List.range n).map (fun t => 2 * ((f t).toNat * 2 ^ (n - 1 - t))) := by
    apply List.map_congr_left
    intro t ht
    have : n + 1 - 1 - t = (n - 1 - t) + 1 := by have := List.mem_range.mp ht; omega
    rw [this, pow_succ]; ring
  simp only [msbFirst, List.range_succ, List.map_append, List.sum_append, hmap, List.map_cons, List.map_nil,
    List.sum_cons, List.sum_nil, List.sum_map_mul_left]
  simp

@[simp] theorem msbFirst_zero (f : Nat → Bool) : msbFirst 0 f = 0 := rfl

theorem msbFirst_lt (n : Nat) (f : Nat → Bool) : msbFirst n f < 2 ^ n := by
  induction n with
  | zero => simp
  | succ n ih =>
    rw [msbFirst_succ, pow_succ]
    have := Bool.toNat_lt (f n)
    omega

/-- Only the first `n` bits matter. -/
theorem msbFirst_congr {n : Nat} {f g : Nat → Bool} (h : ∀ t, t < n → f t = g t) : msbFirst n f = msbFirst n g := by
  unfold msbFirst
  congr 1
  apply List.map_congr_left
  intro t ht
  rw [h t (List.mem_range.mp ht)]

/-- Bit `n - 1 - t` of the number is bit `t` of the sequence (R13). -/
theorem msbFirst_testBit (n : Nat) (f : Nat → Bool) {t : Nat} (h : t < n) :
    (msbFirst n f).testBit (n - 1 - t) = f t := by
  induction n with
  | zero => omega
  | succ n ih =>
    rw [msbFirst_succ]
    by_cases ht : t = n
    · subst ht
      cases hf : f t <;> simp [Nat.testBit_zero]
    · have hs : n + 1 - 1 - t = (n - 1 - t) + 1 := by omega
      rw [hs, Nat.testBit_succ]
      have hd : (2 * msbFirst n f + (f n).toNat) / 2 = msbFirst n f := by
        have := Bool.toNat_lt (f n)
        omega
      rw [hd, ih (by omega)]

/-- Bit `7 - t` of an entropy byte is stream bit `8k + t` (R51, R120). -/
theorem entropyByte_getLsbD (r : Regs) (k : Nat) {t : Nat} (h : t < 8) :
    (entropyByte r k).getLsbD (7 - t) = bufBit r.buf (8 * k + t) := by
  have h7 : 7 - t < 8 := by omega
  simp only [entropyByte, bitsRead, BitVec.getLsbD_ofNat, h7, decide_true, Bool.true_and]
  exact msbFirst_testBit 8 _ h

/-- Bit `7 - t` of a checksum chunk is checksum bit `8j + t`, 0 past `CSBITS` (R123). -/
theorem checksumChunk_getLsbD (r : Regs) (j : Nat) {t : Nat} (h : t < 8) :
    (checksumChunk r j).getLsbD (7 - t) =
      (decide (8 * j + t < r.csbits.toNat) && checksumBit r (8 * j + t)) := by
  have h7 : 7 - t < 8 := by omega
  simp only [checksumChunk, BitVec.getLsbD_ofNat, h7, decide_true, Bool.true_and]
  exact msbFirst_testBit 8 _ h

@[simp] theorem entropyBytes_length (r : Regs) : (entropyBytes r).length = entropyLen r := by simp [entropyBytes]

@[simp] theorem checksumBits_length (r : Regs) : (checksumBits r).length = r.csbits.toNat := by simp [checksumBits]

/-- `KEYBITS` holds the split's key count exactly (R9). -/
theorem writeCounts_keybits_toNat (r : Regs) : (writeCounts r).keybits.toNat = splitKey r := by
  have h : r.wcount.toNat < 1024 := r.wcount.isLt
  rw [writeCounts_keybits, BitVec.toNat_ofNat]
  apply Nat.mod_eq_of_lt
  simp only [splitKey, splitChecksum, totalBits]
  omega

/-- `CSBITS` holds the split's checksum count exactly (R9). -/
theorem writeCounts_csbits_toNat (r : Regs) : (writeCounts r).csbits.toNat = splitChecksum r := by
  have h : r.wcount.toNat < 1024 := r.wcount.isLt
  rw [writeCounts_csbits, BitVec.toNat_ofNat]
  apply Nat.mod_eq_of_lt
  simp only [splitChecksum, totalBits]
  omega

end Sys2Proof.Machine
end

