-- ==== Sys2Proof/Laws/Ops.lean ====
section
/-! SUPPORT. What each shared operation and each command can do, said once. -/

namespace Sys2Proof.Machine

open Sys2Proof

/-- A reject changes the response and nothing else (R186). -/
theorem reject_eq (s : State) (c : RejectCode) :
    s.reject c = { s with rsp := some ⟨false, c.code.setWidth 16⟩ } := rfl

/-- The fatal entry outside ERROR (R188). -/
theorem fatal_eq_of_ne_error (s : State) (c : FatalCode) (h : s.regs.st ≠ .error) :
    s.fatal c = { s with regs := { s.regs with err := .fatal c, st := .error },
                         rsp := some ⟨false, c.code.setWidth 16⟩ } := by
  simp [State.fatal, State.respond, Regs.enterError, h]

/-- Everything CLEAR can do (R162). -/
theorem execClear_cases (s : State) :
    (s.regs.st = .vwait ∧ execClear s = .next (s.reject .badState)) ∨
    (s.regs.st ≠ .vwait ∧ execClear s = .next (s.clearSession.respond true 0)) := by
  by_cases h : s.regs.st = .vwait <;> simp [execClear, h]

/-- Everything PUSH can do (R100). -/
theorem execPush_cases (idx : Opnd) (s : State) :
    (s.regs.st ≠ .collect ∧ execPush idx s = .next (s.reject .badState)) ∨
    (s.regs.st = .collect ∧ s.regs.wcount.toNat = s.maxWords ∧ execPush idx s = .next (s.fatal .overflow)) ∨
    (s.regs.st = .collect ∧ s.regs.wcount.toNat ≠ s.maxWords ∧
      execPush idx s = .next ((s.withRegs (packIndex idx s.regs)).respond true 0)) := by
  by_cases h : s.regs.st = .collect <;> by_cases h2 : s.regs.wcount.toNat = s.maxWords <;> simp [execPush, h, h2]

/-- Everything SPLIT can do (R110). -/
theorem execSplit_cases (s : State) :
    (s.regs.st ≠ .collect ∧ execSplit s = .next (s.reject .badState)) ∨
    (s.regs.st = .collect ∧ splitKey s.regs % 32 ≠ 0 ∧
      execSplit s = .next ((s.withRegs (writeCounts s.regs)).fatal .invalidBitLength)) ∨
    (s.regs.st = .collect ∧ splitKey s.regs % 32 = 0 ∧
      execSplit s = .next ((s.withRegs ((writeCounts s.regs).goto .split)).respond true 0)) := by
  by_cases h : s.regs.st = .collect <;> by_cases h2 : splitKey s.regs % 32 = 0 <;> simp [execSplit, h, h2]

/-- Everything VERIFY can do (R140). -/
theorem execVerify_cases (s : State) :
    (s.regs.st ≠ .split ∧ execVerify s = .next (s.reject .badState)) ∨
    (s.regs.st = .split ∧
      execVerify s = .next ((s.placeRequest.withRegs (s.regs.goto .vwait)).respond true 0)) := by
  by_cases h : s.regs.st = .split <;> simp [execVerify, h]

/-- Everything RDBYTE can do (R122). -/
theorem execRdbyte_cases (k : Opnd) (s : State) :
    (s.regs.st.readable = false ∧ execRdbyte k s = .next (s.reject .badState)) ∨
    (s.regs.st.readable = true ∧ entropyLen s.regs ≤ k.toNat ∧ execRdbyte k s = .next (s.reject .badIndex)) ∨
    (s.regs.st.readable = true ∧ k.toNat < entropyLen s.regs ∧
      execRdbyte k s = .next (s.respond true ((entropyByte s.regs k.toNat).setWidth 16))) := by
  by_cases h : s.regs.st.readable = false
  · simp [execRdbyte, h]
  · by_cases h2 : entropyLen s.regs ≤ k.toNat
    · simp [execRdbyte, h, h2]
    · simp [execRdbyte, h, h2, Nat.not_le.mp h2]

/-- Everything RDCS can do (R123). -/
theorem execRdcs_cases (j : Opnd) (s : State) :
    (s.regs.st.readable = false ∧ execRdcs j s = .next (s.reject .badState)) ∨
    (s.regs.st.readable = true ∧ s.regs.csbits.toNat ≤ 8 * j.toNat ∧ execRdcs j s = .next (s.reject .badIndex)) ∨
    (s.regs.st.readable = true ∧ 8 * j.toNat < s.regs.csbits.toNat ∧
      execRdcs j s = .next (s.respond true ((checksumChunk s.regs j.toNat).setWidth 16))) := by
  by_cases h : s.regs.st.readable = false
  · simp [execRdcs, h]
  · by_cases h2 : s.regs.csbits.toNat ≤ 8 * j.toNat
    · simp [execRdcs, h, h2]
    · simp [execRdcs, h, h2, Nat.not_le.mp h2]

end Sys2Proof.Machine
end

