-- ==== Sys2Proof/Laws/Agents.lean ====
section
/-! SUPPORT. What each move of an agent can do, said once. -/

namespace Sys2Proof.Machine

open Sys2Proof

/-- The host's offer happens when the channel is free, and not otherwise (R41). -/
theorem hostOffers_cases (w : Word) (s : State) :
    (s.cmd = none ∧ hostOffers w s = { s with cmd := some w }) ∨ (s.cmd ≠ none ∧ hostOffers w s = s) := by
  by_cases h : s.cmd = none <;> simp [hostOffers, h]

/-- The stub accepts a placed request, or nothing happens (R141). -/
theorem stubAccepts_cases (s : State) :
    (∃ q, s.rst = false ∧ s.vreq = some q ∧ s.stub = none ∧ stubAccepts s = { s with vreq := none, stub := some q }) ∨
    stubAccepts s = s := by
  unfold stubAccepts
  split
  · rename_i q h1 h2 h3; exact .inl ⟨q, h1, h2, h3, rfl⟩
  · exact .inr rfl

/-- The stub answers the request it holds with `Verify`, or nothing happens (R144). -/
theorem stubAnswers_cases (s : State) :
    (∃ q, s.rst = false ∧ s.stub = some q ∧ s.vrsp = none ∧
      stubAnswers s = { s with stub := none, vrsp := some (verdictOf q.msg q.cs) }) ∨
    stubAnswers s = s := by
  unfold stubAnswers
  split
  · rename_i q h1 h2 h3; exact .inl ⟨q, h1, h2, h3, rfl⟩
  · exact .inr rfl

/-- An answer is recorded in VWAIT (R142), discarded elsewhere (R143) and while reset is asserted (R45). -/
theorem takesResponse_cases (s : State) :
    (s.vrsp = none ∧ takesResponse s = s) ∨
    (∃ m, s.vrsp = some m ∧ s.rst = false ∧ s.regs.st = .vwait ∧
      takesResponse s = { s with vrsp := none, regs := { s.regs with verdict := Verdict.ofAnswer m, st := .done } }) ∨
    (∃ m, s.vrsp = some m ∧ (s.rst = true ∨ s.regs.st ≠ .vwait) ∧ takesResponse s = { s with vrsp := none }) := by
  unfold takesResponse
  split
  · rename_i h; exact .inl ⟨h, rfl⟩
  · rename_i m h
    cases hr : s.rst
    · by_cases hv : s.regs.st = .vwait
      · refine .inr (.inl ⟨m, h, rfl, hv, ?_⟩)
        simp [onStubResponse, hv, State.withRegs]
      · refine .inr (.inr ⟨m, h, .inr hv, ?_⟩)
        simp [onStubResponse, hv]
    · exact .inr (.inr ⟨m, h, .inl rfl, by simp⟩)

/-- An accepted command is lost to a rising reset, or nothing happens (R210, item O9). -/
theorem losesToReset_cases (s : State) :
    (∃ w, s.rst = false ∧ s.cmd = some w ∧ losesToReset s = raisesReset s.accept) ∨
    ((s.rst = true ∨ s.cmd = none) ∧ losesToReset s = s) := by
  unfold losesToReset
  cases hr : s.rst <;> cases hc : s.cmd <;> simp

/-- Reset falls from 1, or nothing happens (R210). -/
theorem dropsReset_cases (s : State) :
    (s.rst = true ∧ dropsReset s = { s.clearSession.dropRequest with rst := false }) ∨
    (s.rst = false ∧ dropsReset s = s) := by
  unfold dropsReset
  cases hr : s.rst <;> simp

/-- What a step does, move by move; a performed command's effect is `exec`'s. -/
theorem step_of_agenda_nil (s : State) (h : s.agenda = []) : step s = .next s.begin := by
  simp [step, nextAction, h, Action.outcome]

theorem step_of_agenda_cons (s : State) (m : Move) (ms : List Move) (h : s.agenda = m :: ms) :
    step s = (moveAction m s.begin).outcome := by
  simp [step, nextAction, h]

/-- What acceptance of the offered word comes to (R41, R73). -/
theorem acceptAction_cases (s : State) :
    (∃ w i, s.rst = false ∧ s.cmd = some w ∧ decode w = .command i ∧ acceptAction s = .run i s.accept) ∨
    (∃ w e, s.rst = false ∧ s.cmd = some w ∧ decode w = .illegal e ∧
      acceptAction s = .settle (s.accept.reject .illegal)) ∨
    ((s.rst = true ∨ s.cmd = none) ∧ acceptAction s = .settle s) := by
  cases hr : s.rst <;> cases hc : s.cmd
  · simp [acceptAction, hr, hc]
  · rename_i w
    cases hd : decode w with
    | command i => exact .inl ⟨w, i, rfl, rfl, hd, by simp [acceptAction, hr, hc, hd]⟩
    | illegal e => exact .inr (.inl ⟨w, e, rfl, rfl, hd, by simp [acceptAction, hr, hc, hd]⟩)
  · simp [acceptAction, hr, hc]
  · simp [acceptAction, hr, hc]

/-- How a step can change the registers: by a reset, by an answer taken in VWAIT, or by a performed command. -/
theorem step_regs_cases {s t : State} (h : step s = .next t) :
    t.regs = s.regs ∨ s.resets ∨
    (s.moves .takeAnswer ∧ s.regs.st = .vwait ∧ ∃ v, t.regs = { s.regs with verdict := v, st := .done }) ∨
    ∃ i, s.performs i ∧ exec i s.begin.accept = .next t := by
  cases ha : s.agenda with
  | nil => rw [step_of_agenda_nil s ha] at h; cases h; exact .inl rfl
  | cons m ms =>
    rw [step_of_agenda_cons s m ms ha] at h
    cases m with
    | perform =>
      rcases acceptAction_cases s.begin with ⟨w, i, hr, hc, hd, he⟩ | ⟨w, e, hr, hc, hd, he⟩ | ⟨hh, he⟩
      · rw [moveAction, he] at h
        exact .inr (.inr (.inr ⟨i, ⟨by simp [State.moves, ha], hr, w, hc, hd⟩, h⟩))
      · simp [moveAction, he, Action.outcome] at h
        subst h
        exact .inl rfl
      · simp [moveAction, he, Action.outcome] at h
        subst h
        exact .inl rfl
    | loseToReset =>
      have h' : t = losesToReset s.begin := by simpa [moveAction, Action.outcome] using h.symm
      rcases losesToReset_cases s.begin with ⟨w, hr, hc, he⟩ | ⟨hh, he⟩
      · rw [he] at h'; subst h'
        exact .inr (.inl (.inr (.inr ⟨by simp [State.moves, ha], hr, w, hc⟩)))
      · rw [he] at h'; subst h'
        exact .inl rfl
    | offer w =>
      have h' : t = hostOffers w s.begin := by simpa [moveAction, Action.outcome] using h.symm
      rcases hostOffers_cases w s.begin with ⟨hc, he⟩ | ⟨hc, he⟩ <;> rw [he] at h' <;> subst h' <;> exact .inl rfl
    | stubAccept =>
      have h' : t = stubAccepts s.begin := by simpa [moveAction, Action.outcome] using h.symm
      rcases stubAccepts_cases s.begin with ⟨q, _, _, _, he⟩ | he <;> rw [he] at h' <;> subst h' <;> exact .inl rfl
    | stubAnswer =>
      have h' : t = stubAnswers s.begin := by simpa [moveAction, Action.outcome] using h.symm
      rcases stubAnswers_cases s.begin with ⟨q, _, _, _, he⟩ | he <;> rw [he] at h' <;> subst h' <;> exact .inl rfl
    | takeAnswer =>
      have h' : t = takesResponse s.begin := by simpa [moveAction, Action.outcome] using h.symm
      rcases takesResponse_cases s.begin with ⟨_, he⟩ | ⟨m,_,_,hv,he⟩ | ⟨_,_,_,he⟩ <;> rw [he] at h' <;> subst h'
      · exact .inl rfl
      · exact .inr (.inr (.inl ⟨by simp [State.moves, ha], hv, _, rfl⟩))
      · exact .inl rfl
    | assertReset =>
      have h' : t = raisesReset s.begin := by simpa [moveAction, Action.outcome] using h.symm
      subst h'
      exact .inr (.inl (.inl (by simp [State.moves, ha])))
    | releaseReset =>
      have h' : t = dropsReset s.begin := by simpa [moveAction, Action.outcome] using h.symm
      rcases dropsReset_cases s.begin with ⟨hr, he⟩ | ⟨_,he⟩ <;> rw [he] at h' <;> subst h'
      · exact .inr (.inl (.inr (.inl ⟨by simp [State.moves, ha], hr⟩)))
      · exact .inl rfl

end Sys2Proof.Machine
end

