-- ==== Sys2Proof/Laws/Decode.lean ====
section
/-! SUPPORT. The fields of an encoded word, and what each operand form decodes to. -/

namespace Sys2Proof

/-- The opcode field of a word put together from its fields (R70). -/
theorem opField_append (op : BitVec 5) (o : Opnd) : opField (op ++ o) = op := by
  apply BitVec.eq_of_getLsbD_eq
  intro i hi
  have h : (op ++ o).getLsbD (11 + i) = op.getLsbD i := by
    rw [BitVec.getLsbD_append, if_neg (by omega)]; congr 1; omega
  simpa only [opField, BitVec.getLsbD_extractLsb', hi, decide_true, Bool.true_and] using h

/-- The operand field of a word put together from its fields (R70). -/
theorem opndField_append (op : BitVec 5) (o : Opnd) : opndField (op ++ o) = o := by
  apply BitVec.eq_of_getLsbD_eq
  intro i hi
  have h : (op ++ o).getLsbD (0 + i) = o.getLsbD i := by
    rw [BitVec.getLsbD_append, if_pos (by omega), Nat.zero_add]
  simpa only [opndField, BitVec.getLsbD_extractLsb', hi, decide_true, Bool.true_and] using h

/-- A word is its two fields (R70). -/
theorem fields_append (w : Word) : opField w ++ opndField w = w := by
  apply BitVec.eq_of_getLsbD_eq
  intro i hi
  simp only [opField, opndField, BitVec.getLsbD_append, BitVec.getLsbD_extractLsb']
  by_cases h : i < 11
  · simp [h]
  · have : i - 11 < 5 := by omega
    simp [h, this]
    congr 1
    omega

@[simp] theorem InfoSel.ofBits_toBits (sel : InfoSel) : InfoSel.ofBits sel.toBits = sel := by
  cases sel <;> rfl

@[simp] theorem InfoSel.toBits_ofBits (b : BitVec 2) : (InfoSel.ofBits b).toBits = b := by
  revert b; decide

theorem formZ_eq_command {i j : Instr} {o : Opnd} : formZ i o = .command j ↔ o = 0 ∧ i = j := by
  unfold formZ; split <;> simp_all

theorem formSel_eq_command {j : Instr} {o : Opnd} :
    formSel o = .command j ↔ mbzField o = 0 ∧ j = .rdinfo (InfoSel.ofBits (selField o)) := by
  unfold formSel
  split
  · rename_i h; simp only [h, true_and, Decoded.command.injEq]; exact eq_comm
  · rename_i h
    constructor
    · intro hc; cases hc
    · intro hc; exact absurd hc.1 h

/-- A written PUSH of an index that fits stands for that PUSH (R80). -/
@[simp] theorem elaborate_push (idx : Opnd) : (SourceCommand.mk .push (some idx.toNat)).elaborate = some (.push idx) := by
  simp [SourceCommand.elaborate, SourceCommand.wf, SourceCommand.check, Mnemonic.form, OperandForm.bound, idx.isLt]

/-- Written commands one after the other: each is elaborated on its own. -/
theorem elaborateAll_append (cs ds : List SourceCommand) :
    elaborateAll (cs ++ ds) = (elaborateAll cs).bind fun is => (elaborateAll ds).map fun js => is ++ js := by
  induction cs with
  | nil => simp [elaborateAll]
  | cons c cs ih =>
    simp only [List.cons_append, elaborateAll, ih]
    cases c.elaborate <;> cases elaborateAll cs <;> cases elaborateAll ds <;> simp

/-- `WORDS` of indices that fit is their pushes (R81). -/
theorem elaborateAll_pushSources (ws : List Opnd) :
    elaborateAll (pushSources (ws.map BitVec.toNat)) = some (ws.map .push) := by
  induction ws with
  | nil => rfl
  | cons w ws ih =>
    simp only [pushSources, List.map_cons, elaborateAll] at ih ⊢
    rw [elaborate_push, ih]; rfl

end Sys2Proof
end

