-- ==== Sys2Proof/Laws/PerInstr.lean ====
section
/-! SUPPORT. One statement per command about its encoding: its word lies in its own row of the opcode map (R72) and is
`match | n` for the operand `n` (R80). -/

namespace Sys2Proof.Laws.InRow

open Sys2Proof

/-- The command's word is the row's match word with the operand in its field, and the operand is all the mask drops. -/
def Statement (i : Instr) : Prop :=
  encode i = i.mnemonic.matchWord ||| i.operandField.setWidth 16 ∧
    ∃ r ∈ opcodeMap, r.mnemonic = i.mnemonic ∧ r.spells (encode i) = true

/-- Two fields side by side are the upper one with zeros below, or'ed with the lower one. -/
theorem append_eq_or (op : BitVec 5) (o : Opnd) : (op ++ o : Word) = (op ++ (0 : Opnd)) ||| o.setWidth 16 := by
  apply BitVec.eq_of_getLsbD_eq
  intro i hi
  simp only [BitVec.getLsbD_append, BitVec.getLsbD_or, BitVec.getLsbD_setWidth, hi, decide_true, Bool.true_and]
  by_cases h : i < 11
  · simp [h]
  · simp [h, BitVec.getLsbD_of_ge o i (by omega)]

/-- A mask of the five opcode bits keeps the opcode and nothing else. -/
theorem append_and_opMask (op : BitVec 5) (o : Opnd) : (op ++ o : Word) &&& 0xF800 = op ++ (0 : Opnd) := by
  have hm : ∀ i, i < 16 → (0xF800 : Word).getLsbD i = !decide (i < 11) := by decide
  apply BitVec.eq_of_getLsbD_eq
  intro i hi
  rw [BitVec.getLsbD_and, hm i hi]
  simp only [BitVec.getLsbD_append]
  by_cases h : i < 11 <;> simp [h]

theorem nop : Statement .nop := ⟨append_eq_or _ _, ⟨.nop, 0x0000, 0xFFFF⟩, by decide, rfl, by decide⟩
theorem clear : Statement .clear := ⟨append_eq_or _ _, ⟨.clear, 0x0800, 0xFFFF⟩, by decide, rfl, by decide⟩
theorem push (idx : Opnd) : Statement (.push idx) :=
  ⟨append_eq_or _ _, ⟨.push, 0x1000, 0xF800⟩, by decide, rfl, by
    simp only [OpcodeRow.spells, encode, append_and_opMask, Instr.mnemonic]; decide⟩
theorem split : Statement .split := ⟨append_eq_or _ _, ⟨.split, 0x1800, 0xFFFF⟩, by decide, rfl, by decide⟩
theorem verify : Statement .verify := ⟨append_eq_or _ _, ⟨.verify, 0x2000, 0xFFFF⟩, by decide, rfl, by decide⟩
theorem rdstat : Statement .rdstat := ⟨append_eq_or _ _, ⟨.rdstat, 0x2800, 0xFFFF⟩, by decide, rfl, by decide⟩
theorem rdinfo (sel : InfoSel) : Statement (.rdinfo sel) :=
  ⟨append_eq_or _ _, ⟨.rdinfo, 0x3000, 0xFFFC⟩, by decide, rfl, by cases sel <;> decide⟩
theorem rdbyte (k : Opnd) : Statement (.rdbyte k) :=
  ⟨append_eq_or _ _, ⟨.rdbyte, 0x3800, 0xF800⟩, by decide, rfl, by
    simp only [OpcodeRow.spells, encode, append_and_opMask, Instr.mnemonic]; decide⟩
theorem rdcs (j : Opnd) : Statement (.rdcs j) :=
  ⟨append_eq_or _ _, ⟨.rdcs, 0x4000, 0xF800⟩, by decide, rfl, by
    simp only [OpcodeRow.spells, encode, append_and_opMask, Instr.mnemonic]; decide⟩

end Sys2Proof.Laws.InRow
end

