-- ==== Sys2Proof/Tests/Slice0.lean ====
section
/-! SUPPORT. Tests of the model against the vectors of 95_test_vectors.md and the worked examples of the command rules, the
well-formedness smoke tests, and for each statement with hypotheses a state and operands that meet them. -/

namespace Sys2Proof.Tests

open Sys2Proof Sys2Proof.Machine

/-- The next state of an outcome, where it is one. -/
def nextOf : Host.Outcome State Fault Refusal → Option State
  | .next s => some s
  | .fault _ => none
  | .refused _ => none

/-- The response an outcome carries. -/
def rspOf (o : Host.Outcome State Fault Refusal) : Option Response := (nextOf o).bind State.rsp

/-- Registers after packing the indices and a valid split, in a build of `n` words. -/
def splitOf (n : Nat) (ws : List Opnd) : Regs :=
  (writeCounts (ws.foldl (fun r w => packIndex w r) (Regs.reset n))).goto .split

/-- A state of a build of `n` words with the given registers and nothing on the channels. -/
def withRegsOf (n : Nat) (r : Regs) : State := { State.resetOf n with regs := r }

/-- The words of vector S3. -/
def s3Words : List Opnd := [1019, 2015, 1790, 2039, 1983, 1533, 2031, 1919, 1019, 2015, 1790, 2040]

/- ---- Well-formedness: an ill-formed term for each check (R71, R80) ---- -/

theorem test_wf_operand_out_of_range : (SourceCommand.mk .push (some 2048)).check = some .operandOutOfRange := by decide
theorem test_wf_selector_out_of_range : (SourceCommand.mk .rdinfo (some 4)).wf = false := by decide
theorem test_wf_operand_missing : (SourceCommand.mk .rdbyte none).check = some .operandMissing := by decide
theorem test_wf_operand_not_allowed : (SourceCommand.mk .nop (some 0)).check = some .operandNotAllowed := by decide
theorem test_wf_accepts : (SourceCommand.mk .rdcs (some 2047)).wf = true ∧ (SourceCommand.mk .split none).wf = true := by
  decide

/- ---- Decoding: words written out from R72, and the table of L2 "Encoding" ---- -/

theorem test_decode_nop : decode 0b00000_00000000000 = .command .nop := by decide
theorem test_decode_clear : decode 0b00001_00000000000 = .command .clear := by decide
theorem test_decode_push : decode 0b00010_10000000101 = .command (.push 1029) := by decide
theorem test_decode_push_top : decode 0x17FF = .command (.push 2047) := by decide
theorem test_decode_split : decode 0b00011_00000000000 = .command .split := by decide
theorem test_decode_verify : decode 0b00100_00000000000 = .command .verify := by decide
theorem test_decode_rdstat : decode 0b00101_00000000000 = .command .rdstat := by decide
theorem test_decode_rdinfo : decode 0b00110_00000000011 = .command (.rdinfo .checkSumBits) := by decide
theorem test_decode_rdbyte : decode 0x3FFF = .command (.rdbyte 2047) := by decide
theorem test_decode_rdcs : decode 0x47FF = .command (.rdcs 2047) := by decide
theorem test_decode_illegal_operand : decode 0x07FF = .illegal .operandNotZero := by decide
theorem test_decode_illegal_split : decode 0x1C00 = .illegal .operandNotZero := by decide
theorem test_decode_illegal_mbz : decode 0x3004 = .illegal .mbzNotZero := by decide
theorem test_decode_illegal_first : decode 0x4800 = .illegal .reservedOpcode := by decide
theorem test_decode_illegal_last : decode 0xFFFF = .illegal .reservedOpcode := by decide

/-- The opcode table's numbering: one 16-bit word. -/
theorem test_decode_table_word : decodeTableWord 16 0x380F = some (.rdbyte 15) ∧ decodeTableWord 16 0x4800 = none := by
  decide

/-- R80's own examples. -/
theorem test_assemble_examples :
    assembleLine ['P', 'U', 'S', 'H', ' ', '2', '0', '4', '7'] = some 0x17FF ∧
    assembleLine ['R', 'D', 'B', 'Y', 'T', 'E', ' ', '0', 'x', '0', 'F', ' ', ';', 'k'] = some 0x380F ∧
    assembleLine ['C', 'L', 'E', 'A', 'R'] = some 0x0800 ∧
    assembleLine ['P', 'U', 'S', 'H', ' ', '2', '0', '4', '8'] = none := by decide

/-- R81: the expansion of DECODE. -/
theorem test_expand_decode :
    (Pseudo.decode [1, 2]).elaborate = some [.clear, .push 1, .push 2, .split, .verify] := by decide

/-- R81: the expansion of RDENT. -/
theorem test_expand_rdent : (Pseudo.rdent 2).elaborate = some [.rdbyte 0, .rdbyte 1] := by decide

/-- R80: an index past 2047 is refused in a pseudo-instruction too, not truncated. -/
theorem test_expand_refused :
    (Pseudo.words [2047, 2048]).elaborate = none ∧ (Pseudo.decode [2048]).elaborate = none := by decide

/- ---- The commands, by their worked examples ---- -/

/-- C1: NOP in ERROR. -/
theorem test_nop_in_error :
    rspOf (exec .nop (withRegsOf 3 { Regs.reset 3 with st := .error, err := .fatal .overflow })) = some ⟨true, 0⟩ := by
  decide

/-- V20: CLEAR in VWAIT. -/
theorem test_clear_in_vwait :
    rspOf (exec .clear (withRegsOf 3 { Regs.reset 3 with st := .vwait })) = some ⟨false, 2⟩ := by decide

/-- C5: CLEAR in ERROR after 13 words: the reset values. -/
theorem test_clear_in_error :
    (nextOf (exec .clear (withRegsOf 24
      { Regs.reset 24 with wcount := 13, st := .error, err := .fatal .invalidBitLength, keybits := 139,
                           csbits := 4 }))).map
        (fun s => (s.rsp, s.regs.st, s.regs.wcount, s.regs.err)) =
      some (some ⟨true, 0⟩, .collect, 0, .none) := by decide

set_option maxRecDepth 4000 in
/-- K1: PUSH 1029 from reset. -/
theorem test_push_first :
    (nextOf (exec (.push 1029) State.reset)).map (fun s => (s.regs.buf.take 12, s.regs.wcount, s.rsp)) =
      some ([true, false, false, false, false, false, false, false, true, false, true, false], 1,
        some ⟨true, 0⟩) := by decide

/-- K4: the 25th PUSH. -/
theorem test_push_overflow :
    (nextOf (exec (.push 7) (withRegsOf 24 { Regs.reset 24 with wcount := 24 }))).map
      (fun s => (s.rsp, s.regs.st, s.regs.err, s.regs.wcount)) =
      some (some ⟨false, 5⟩, .error, .fatal .overflow, 24) := by decide

/-- The SPLIT table, 13 words: INVALID_BIT_LENGTH, counts kept. -/
theorem test_split_thirteen :
    (nextOf (exec .split (withRegsOf 24 { Regs.reset 24 with wcount := 13 }))).map
      (fun s => (s.rsp, s.regs.st, s.regs.keybits, s.regs.csbits)) = some (some ⟨false, 4⟩, .error, 139, 4) := by decide

/-- The SPLIT table, 768 words (a build of 768). -/
theorem test_split_largest :
    (nextOf (exec .split (withRegsOf 768 { Regs.reset 768 with wcount := 768 }))).map
      (fun s => (s.rsp, s.regs.st, s.regs.keybits, s.regs.csbits)) = some (some ⟨true, 0⟩, .split, 8192, 256) := by decide

/-- V16: VERIFY in SPLIT: the request of a three-word session (S8). -/
theorem test_verify_places_request :
    (nextOf (exec .verify (withRegsOf 3 (splitOf 3 [0, 0, 1])))).map (fun s => (s.rsp, s.regs.st, s.vreq)) =
      some (some ⟨true, 0⟩, .vwait, some ⟨4, [0, 0, 0, 0], 1, [true]⟩) := by decide

/-- V19: VERIFY in DONE. -/
theorem test_verify_once :
    rspOf (exec .verify (withRegsOf 3 { Regs.reset 3 with st := .done, verdict := .matched })) = some ⟨false, 2⟩ := by
  decide

/-- C2: DONE with MATCH. -/
theorem test_rdstat_done :
    rspOf (exec .rdstat (withRegsOf 3 { Regs.reset 3 with st := .done, verdict := .matched })) =
      some ⟨true, 0x0103⟩ := by decide

/-- C2: ERROR after code 5. -/
theorem test_rdstat_error :
    rspOf (exec .rdstat (withRegsOf 3 { Regs.reset 3 with st := .error, err := .fatal .overflow })) =
      some ⟨true, 0x0057⟩ := by decide

/-- C3: RDINFO 1 after 13 pushes. -/
theorem test_rdinfo_bits :
    rspOf (exec (.rdinfo .totalBits) (withRegsOf 24 { Regs.reset 24 with wcount := 13 })) = some ⟨true, 0x008F⟩ := by
  decide

/-- S3: RDBYTE 1 takes bits of two indices. -/
theorem test_rdbyte_straddles : rspOf (exec (.rdbyte 1) (withRegsOf 12 (splitOf 12 s3Words))) = some ⟨true, 0x7F⟩ := by
  decide

/-- E2: RDBYTE 2047 in COLLECT is BAD_STATE, not BAD_INDEX. -/
theorem test_rdbyte_collect : rspOf (exec (.rdbyte 2047) State.reset) = some ⟨false, 2⟩ := by decide

/-- S3: RDCS 0. -/
theorem test_rdcs_left_aligned : rspOf (exec (.rdcs 0) (withRegsOf 12 (splitOf 12 s3Words))) = some ⟨true, 0x80⟩ := by
  decide

/-- S8: RDCS 1 is past the last chunk. -/
theorem test_rdcs_past_end : rspOf (exec (.rdcs 1) (withRegsOf 3 (splitOf 3 [0, 0, 1]))) = some ⟨false, 3⟩ := by decide

/- ---- Steps of the other agents ---- -/

/-- E1: an ILLEGAL word in VWAIT is ILLEGAL, not BAD_STATE. -/
theorem test_illegal_first :
    rspOf (step ((withRegsOf 3 { Regs.reset 3 with st := .vwait }).withFetchWord 16 0x0801)) = some ⟨false, 1⟩ := by decide

/-- A word of the table runs as the first command after reset: SPLIT of zero words (P7). -/
theorem test_first_command : rspOf (step (State.reset.withFetchWord 16 0x1800)) = some ⟨true, 0⟩ := by decide

/-- V17: the answer 1 taken in VWAIT. -/
theorem test_answer_taken :
    (nextOf (step { withRegsOf 3 { Regs.reset 3 with st := .vwait } with vrsp := some true, agenda := [.takeAnswer] })).map
      (fun s => (s.regs.st, s.regs.verdict, s.vrsp)) = some (.done, .matched, none) := by decide

/-- V21: an answer in COLLECT is discarded. -/
theorem test_answer_discarded :
    nextOf (step { State.resetOf 3 with vrsp := some true, agenda := [.takeAnswer] }) = some (State.resetOf 3) := by decide

/-- Z2: reset in VWAIT. -/
theorem test_reset_in_vwait :
    nextOf (steps 2 { withRegsOf 3 { Regs.reset 3 with st := .vwait } with
      vreq := some ⟨0, [], 0, []⟩, agenda := [.assertReset, .releaseReset] }) = some (State.resetOf 3) := by decide

/-- Item O9, R210: a PUSH accepted before reset, its response lost, and the reset over. -/
theorem test_command_lost_to_reset :
    nextOf (steps 2 { State.resetOf 3 with cmd := some 0x1005, agenda := [.loseToReset, .releaseReset] }) =
      some (State.resetOf 3) := by decide

/-- V2 and V3, the digest's first byte as a premise about `H`. -/
theorem test_verify_function (msg : List Byte) (h : (Config.H msg).toList.getD 0 0 = 0x37) :
    verdictOf msg [false, false, true, true] = true ∧ verdictOf msg [false, false, true, false] = false := by
  have e : ∀ n, n < 4 → digestBit (Config.H msg) n = (0x37 : Byte).getLsbD (7 - n) := by
    intro n hn
    have h8 : n / 8 = 0 := by omega
    have hm : n % 8 = n := by omega
    rw [digestBit, h8, hm, h]
  simp [verdictOf, bitsAgree, List.range_succ, e]

/- ---- States that meet the statements' hypotheses ---- -/

/-- A three-word build, zero words pushed, in the session state `v`. -/
def zero (v : Session) (d : Verdict) : State := withRegsOf 3 { Regs.reset 3 with st := v, verdict := d }

/-- Zero words, waiting for the stub: the request is placed. -/
def waiting : State := { zero .vwait .none with vreq := some (requestOf (Regs.reset 3)) }

/-- A full buffer overflowed. -/
def overflowed : State :=
  withRegsOf 3 { Regs.reset 3 with wcount := 3, st := .error, err := .fatal .overflow }

/-- One word split. -/
def badLength : State :=
  withRegsOf 3 { Regs.reset 3 with wcount := 1, st := .error, err := .fatal .invalidBitLength, keybits := 11 }

/-- Three words whose checksum bit is not the digest's: DONE with MISMATCH, whatever `H` is. -/
def mismatchDone : State :=
  withRegsOf 3
    { buf := List.replicate 32 false ++ [!digestBit (Config.H [0, 0, 0, 0]) 0], wcount := 3, st := .done, keybits := 32,
      csbits := 1, err := .none, verdict := .mismatched }

theorem verdictOf_nil (msg : List Byte) : verdictOf msg [] = true := by simp [verdictOf, bitsAgree]

/-- Registers of a three-word build with an all-zero buffer are sound when the finite conditions hold. -/
theorem zeros_sound (r : Regs) (hbuf : r.buf = List.replicate 33 false)
    (hfin : r.wcount.toNat ≤ 3 ∧
      (r.st = .collect → r.keybits = 0 ∧ r.csbits = 0 ∧ r.err = .none ∧ r.verdict = .none) ∧
      (r.st = .split ∨ r.st = .vwait ∨ r.st = .done →
        r.keybits.toNat + r.csbits.toNat = totalBits r ∧ r.csbits.toNat = totalBits r / 33 ∧
          r.keybits.toNat % 32 = 0 ∧ r.wcount.toNat % 3 = 0 ∧ r.err = .none) ∧
      (r.st ≠ .error → (r.verdict ≠ .none ↔ r.st = .done)) ∧
      (r.st = .error → r.err ≠ .none ∧ r.verdict = .none) ∧
      (r.st = .error → r.err = .fatal .overflow → r.wcount.toNat = 3 ∧ r.keybits = 0 ∧ r.csbits = 0) ∧
      (r.st = .error → r.err = .fatal .invalidBitLength →
        r.keybits.toNat + r.csbits.toNat = totalBits r ∧ r.keybits.toNat % 32 ≠ 0))
    (hv : r.st = .done → r.csbits = 0 ∧ r.verdict = .matched) : r.Sound 3 where
  bufLength := by simp [hbuf]
  countRange := hfin.1
  tailZero := fun p _ hp => by rw [hbuf]; exact bufBit_replicate_false hp
  collecting := hfin.2.1
  splitDone := hfin.2.2.1
  verdictDone := hfin.2.2.2.1
  errorCode := hfin.2.2.2.2.1
  overflowed := hfin.2.2.2.2.2.1
  badLength := hfin.2.2.2.2.2.2
  verdictTrue := fun h => by
    obtain ⟨hc, hm⟩ := hv h
    simp [checksumBits, hc, verdictOf_nil, hm, Verdict.ofAnswer]

/-- Empty channels are sound outside VWAIT. -/
theorem quiet_channels (n : Nat) (r : Regs) (h : r.st ≠ .vwait) : (withRegsOf n r).ChannelsSound where
  one := by simp [State.inFlight, withRegsOf, h]
  placed := fun q hq => by simp [withRegsOf] at hq
  held := fun q hq => by simp [withRegsOf] at hq
  answered := fun m hm => by simp [withRegsOf] at hm

theorem zero_collect_inv : (zero .collect .none).Inv :=
  ⟨by decide, zeros_sound _ rfl (by decide) (by decide), quiet_channels _ _ (by decide), by decide⟩

theorem zero_split_inv : (zero .split .none).Inv :=
  ⟨by decide, zeros_sound _ rfl (by decide) (by decide), quiet_channels _ _ (by decide), by decide⟩

theorem zero_done_inv : (zero .done .matched).Inv :=
  ⟨by decide, zeros_sound _ rfl (by decide) (by decide), quiet_channels _ _ (by decide), by decide⟩

theorem overflowed_inv : overflowed.Inv :=
  ⟨by decide, zeros_sound _ rfl (by decide) (by decide), quiet_channels _ _ (by decide), by decide⟩

theorem badLength_inv : badLength.Inv :=
  ⟨by decide, zeros_sound _ rfl (by decide) (by decide), quiet_channels _ _ (by decide), by decide⟩

theorem waiting_inv : waiting.Inv where
  build := by decide
  regs := zeros_sound _ rfl (by decide) (by decide)
  channels :=
    { one := rfl
      placed := fun q hq => (Option.some.inj hq).symm
      held := fun q hq => nomatch hq
      answered := fun m hm => nomatch hm }
  inReset := by decide

theorem mismatchDone_inv : mismatchDone.Inv where
  build := by decide
  regs :=
    { bufLength := rfl
      countRange := by decide
      tailZero := fun p h hp => absurd hp (Nat.not_lt.mpr h)
      collecting := by intro h; cases h
      splitDone := by intro _; exact ⟨rfl, rfl, rfl, rfl, rfl⟩
      verdictDone := by intro _; exact ⟨fun _ => rfl, fun _ h => by cases h⟩
      errorCode := by intro h; cases h
      overflowed := by intro h; cases h
      badLength := by intro h; cases h
      verdictTrue := by
        intro _
        have hm : entropyBytes mismatchDone.regs = [0, 0, 0, 0] := rfl
        have hc : checksumBits mismatchDone.regs = [!digestBit (Config.H [0, 0, 0, 0]) 0] := rfl
        rw [hm, hc]
        have : verdictOf [0, 0, 0, 0] [!digestBit (Config.H [0, 0, 0, 0]) 0] = false := by
          simp [verdictOf, bitsAgree]
        rw [this]; rfl }
  channels := quiet_channels _ _ (by intro h; cases h)
  inReset := by intro h; cases h

/- ---- One witness for each statement with hypotheses, clause by clause, at the boundary values ---- -/

/-- A state in which the next step performs the word `w`. -/
def performing (s : State) (w : Word) : State := { s with cmd := some w, agenda := [.perform] }

theorem witness_EncodeOfDecodedWordGivesWord : decode 0x1405 = .command (.push 1029) := by decide

theorem witness_WordsSpellTheRows :
    OpcodeRow.spells ⟨.nop, 0x0000, 0xFFFF⟩ 0x0000 = true ∧ 0x48 ≤ (0x4800 : Word).toNat / 256 ∧
      0x48 ≤ (0xFFFF : Word).toNat / 256 := by decide

theorem witness_Assembler : (0 < 2048 ∧ 2047 < 2048 ∧ 3 < 4) ∧ (2048 ≤ 2048 ∧ 4 ≤ 4) ∧
    (Mnemonic.rdcs = .push ∨ Mnemonic.rdcs = .rdinfo ∨ Mnemonic.rdcs = .rdbyte ∨ Mnemonic.rdcs = .rdcs) := by decide

/-- Each clause at its boundary: lists of any length, RDENT of 2048 and 2049 bytes, an index of 2048 after one that fits. -/
theorem witness_PseudoInstructions :
    (∃ ws : List Opnd, ws.map BitVec.toNat = [0, 2047]) ∧ 0 ≤ 2048 ∧ 2048 ≤ 2048 ∧ 2048 < 2049 ∧ 2047 < 2048 ∧
      (2048 ∈ [2047, 2048] ∧ 2048 ≤ 2048) := ⟨⟨[0, 2047], rfl⟩, by decide⟩

theorem witness_StepRunsTheDecodedCommand :
    (performing State.reset 0x1800).agenda = .perform :: [] ∧ (performing State.reset 0x1800).rst = false ∧
      (performing State.reset 0x1800).cmd = some 0x1800 ∧ decode 0x1800 = .command .split :=
  ⟨rfl, rfl, rfl, by decide⟩

/-- A step with a response; one without; one that accepts a word and loses it to reset; and one that leaves an offered
word on the channel (the host's second offer). -/
theorem witness_OneResponsePerAcceptedCommand :
    (∃ t, step (performing State.reset 0x2800) = .next t ∧ (performing State.reset 0x2800).cmdReady = true) ∧
    (∃ t, step State.reset = .next t) ∧
    (∃ t, step { State.reset with cmd := some 0x2800, agenda := [.loseToReset] } = .next t ∧
      ({ State.reset with cmd := some 0x2800, agenda := [.loseToReset] } : State).cmdReady = true ∧ t.rsp = none) ∧
    (∃ t, step { State.reset with cmd := some 0x2800, agenda := [.offer 0] } = .next t ∧
      ({ State.reset with cmd := some 0x2800, agenda := [.offer 0] } : State).cmdReady = false) :=
  ⟨⟨_, rfl, by decide⟩, ⟨_, rfl⟩, ⟨_, rfl, by decide, rfl⟩, ⟨_, rfl, by decide⟩⟩

theorem witness_NopEffect : (0x0001 ≤ (0x0001 : Word).toNat ∧ (0x0001 : Word).toNat ≤ 0x07FF) ∧
    (0x0001 ≤ (0x07FF : Word).toNat ∧ (0x07FF : Word).toNat ≤ 0x07FF) := by decide

theorem witness_ClearEffect :
    waiting.regs.st = .vwait ∧ overflowed.regs.st ≠ .vwait ∧
      ∃ t, overflowed.regs.st = .error ∧ exec .clear overflowed = .next t ∧ t.regs.st ≠ .error :=
  ⟨rfl, by decide, _, rfl, rfl, by decide⟩

theorem witness_PushEffect :
    (zero .split .none).regs.st ≠ .collect ∧
    (withRegsOf 3 { Regs.reset 3 with wcount := 3 }).regs.wcount.toNat = 3 ∧
    ((zero .collect .none).maxWords ≤ 768 ∧ (zero .collect .none).regs.buf.length = 11 * 3 ∧
      (zero .collect .none).regs.st = .collect ∧ (zero .collect .none).regs.wcount.toNat < 3) ∧
    (withRegsOf 3 { Regs.reset 3 with wcount := 2 }).regs.wcount.toNat < 3 := by decide

/-- Both clauses of the split: three words (valid) and one (invalid). -/
theorem witness_SplitEffect :
    (zero .split .none).regs.st ≠ .collect ∧
    ((withRegsOf 3 { Regs.reset 3 with wcount := 3 }).regs.st = .collect ∧ (33 - 33 / 33) % 32 = 0) ∧
    ((withRegsOf 3 { Regs.reset 3 with wcount := 1 }).regs.st = .collect ∧ (11 - 11 / 33) % 32 ≠ 0) := by decide

theorem witness_SplitValidExactlyOnMultiplesOfThree :
    (withRegsOf 24 { Regs.reset 24 with wcount := 13 }).regs.st = .collect ∧
    (withRegsOf 24 { Regs.reset 24 with wcount := 13 }).regs.wcount.toNat = 3 * 4 + 1 ∧
    (withRegsOf 24 { Regs.reset 24 with wcount := 24 }).regs.wcount.toNat = 3 * 8 + 0 := by decide

theorem witness_VerifyEffect : (zero .collect .none).regs.st ≠ .split ∧
    (withRegsOf 3 (splitOf 3 [0, 0, 1])).regs.st = .split ∧
    (withRegsOf 3 (splitOf 3 [0, 0, 1])).regs.keybits.toNat / 8 = 4 ∧
    (withRegsOf 3 (splitOf 3 [0, 0, 1])).regs.csbits.toNat = 1 := by decide

theorem witness_RdstatEffect :
    (waiting.Inv ∧ waiting.regs.st = .vwait) ∧
    ((zero .done .matched).Inv ∧ (zero .done .matched).regs.st = .done ∧ (zero .done .matched).regs.verdict = .matched) ∧
    (mismatchDone.Inv ∧ mismatchDone.regs.st = .done ∧ mismatchDone.regs.verdict = .mismatched) ∧
    ((zero .collect .none).Inv ∧ (zero .collect .none).regs.st = .collect) ∧
    (badLength.Inv ∧ badLength.regs.st = .error ∧ badLength.regs.err = .fatal .invalidBitLength) ∧
    (overflowed.Inv ∧ overflowed.regs.st = .error ∧ overflowed.regs.err = .fatal .overflow) :=
  ⟨⟨waiting_inv, rfl⟩, ⟨zero_done_inv, rfl, rfl⟩, ⟨mismatchDone_inv, rfl, rfl⟩, ⟨zero_collect_inv, rfl⟩,
    ⟨badLength_inv, rfl, rfl⟩, ⟨overflowed_inv, rfl, rfl⟩⟩

theorem witness_RdinfoEffect :
    ((zero .collect .none).Inv ∧ (zero .collect .none).regs.st = .collect) ∧
    (overflowed.Inv ∧ overflowed.regs.err = .fatal .overflow) ∧
    ((0x3004 : Word) &&& 0xF800 = 0x3000 ∧ (0x3004 : Word) &&& 0x07FC ≠ 0) ∧
    ((0x37FF : Word) &&& 0xF800 = 0x3000 ∧ (0x37FF : Word) &&& 0x07FC ≠ 0) :=
  ⟨⟨zero_collect_inv, rfl⟩, ⟨overflowed_inv, rfl⟩, by decide, by decide⟩

/-- Bytes 3 and 4 of a four-byte entropy, and the two states without one. -/
theorem witness_RdbyteEffect :
    (zero .collect .none).regs.st = .collect ∧ overflowed.regs.st = .error ∧
    ((splitOf 3 [0, 0, 1]).st = .split ∧ (splitOf 3 [0, 0, 1]).keybits.toNat / 8 ≤ (4 : Opnd).toNat) ∧
    (3 : Opnd).toNat < (splitOf 3 [0, 0, 1]).keybits.toNat / 8 := by decide

/-- Chunks 0 and 1 of a one-bit checksum, and the two states without one. -/
theorem witness_RdcsEffect :
    (zero .collect .none).regs.st = .collect ∧ overflowed.regs.st = .error ∧
    ((splitOf 3 [0, 0, 1]).st = .split ∧ (splitOf 3 [0, 0, 1]).csbits.toNat ≤ 8 * (1 : Opnd).toNat) ∧
    8 * (0 : Opnd).toNat < (splitOf 3 [0, 0, 1]).csbits.toNat := by decide

theorem witness_FrameOfEveryCommand :
    (∃ t, exec .verify (zero .split .none) = .next t) ∧ (∃ t, exec (.rdbyte 0) (zero .split .none) = .next t) :=
  ⟨⟨_, rfl⟩, ⟨_, rfl⟩⟩

theorem witness_ReadsAreRepeatable : ∃ k, Instr.rdbyte 5 = .rdbyte k := ⟨5, rfl⟩

/-- Every result code is met by some command and state. -/
theorem witness_ResultCodes :
    badStateEntry .clear .vwait = true ∧
    rspOf (exec (.rdcs 0) (zero .split .none)) = some ⟨false, 3⟩ ∧
    rspOf (exec .split (withRegsOf 3 { Regs.reset 3 with wcount := 2 })) = some ⟨false, 4⟩ ∧
    rspOf (exec (.push 0) (withRegsOf 3 { Regs.reset 3 with wcount := 3 })) = some ⟨false, 5⟩ := by decide

theorem witness_RejectChangesNothing :
    (∃ t, exec .clear waiting = .next t ∧ t.rsp = some ⟨false, 2⟩) ∧
    (∃ t, exec (.rdbyte 0) (zero .split .none) = .next t ∧ t.rsp = some ⟨false, 3⟩) ∧
    ((performing waiting 0x0801).agenda = .perform :: [] ∧ (performing waiting 0x0801).rst = false ∧
      (performing waiting 0x0801).cmd = some 0x0801 ∧ decode 0x0801 = .illegal .operandNotZero) :=
  ⟨⟨_, rfl, rfl⟩, ⟨_, rfl, by decide⟩, rfl, rfl, rfl, by decide⟩

theorem witness_FatalErrorEntry :
    (∃ t, exec .split (withRegsOf 3 { Regs.reset 3 with wcount := 1 }) = .next t ∧ t.rsp = some ⟨false, 4⟩) ∧
    (∃ t, exec (.push 0) (withRegsOf 3 { Regs.reset 3 with wcount := 3 }) = .next t ∧ t.rsp = some ⟨false, 5⟩) ∧
    overflowed.regs.st = .error := ⟨⟨_, rfl, by decide⟩, ⟨_, rfl, by decide⟩, rfl⟩

theorem witness_ErrorIsSticky :
    (∃ t, overflowed.regs.st = .error ∧ step overflowed = .next t ∧ ¬ overflowed.performs .clear ∧ ¬ overflowed.resets) ∧
    (performing overflowed 0x0000).performs .nop ∧ (performing overflowed 0x0800).performs .clear ∧
    (performing overflowed 0x2800).performs .rdstat ∧ (performing overflowed 0x3000).performs (.rdinfo .wordCount) ∧
    (performing overflowed 0x1005).performs (.push 5) := by
  refine ⟨⟨_, rfl, rfl, ?_, ?_⟩, ⟨rfl, rfl, _, rfl, by decide⟩, ⟨rfl, rfl, _, rfl, by decide⟩,
    ⟨rfl, rfl, _, rfl, by decide⟩, ⟨rfl, rfl, _, rfl, by decide⟩, ⟨rfl, rfl, _, rfl, by decide⟩⟩
  · rintro ⟨h, -⟩; cases h
  · rintro (h | ⟨h, -⟩ | ⟨h, -⟩) <;> cases h

theorem witness_NoBufferBitLeaves : (zero .collect .none).regs.st = .collect ∧ overflowed.regs.st = .error := ⟨rfl, rfl⟩

theorem witness_ResetStatesAreSound : (1 ≤ 1 ∧ 1 ≤ 768) ∧ (1 ≤ 768 ∧ 768 ≤ 768) := by decide

theorem witness_EveryStepKeepsTheInvariants : waiting.Inv ∧ ∃ t, step waiting = .next t := ⟨waiting_inv, _, rfl⟩

theorem witness_SessionStateChanges : ∃ t, step (performing (zero .split .none) 0x2000) = .next t ∧
    t.regs.st ≠ (performing (zero .split .none) 0x2000).regs.st := ⟨_, rfl, by decide⟩

/-- WCOUNT and BUF by PUSH, KEYBITS, CSBITS and ST by SPLIT, ERR by PUSH, ST alone by VERIFY, VERDICT by an answer. -/
theorem witness_RegistersAreWritten :
    (∃ t, step (performing (zero .collect .none) 0x1001) = .next t ∧
      t.regs.wcount ≠ (zero .collect .none).regs.wcount ∧ t.regs.buf ≠ (zero .collect .none).regs.buf) ∧
    (∃ t, step (performing (withRegsOf 3 { Regs.reset 3 with wcount := 3 }) 0x1800) = .next t ∧
      t.regs.keybits ≠ 0 ∧ t.regs.csbits ≠ 0 ∧ t.regs.st ≠ .collect) ∧
    (∃ t, step (performing (withRegsOf 3 { Regs.reset 3 with wcount := 3 }) 0x1001) = .next t ∧
      t.regs.err ≠ .none ∧ t.regs.st ≠ .collect) ∧
    (∃ t, step (performing (zero .split .none) 0x2000) = .next t ∧ t.regs.st ≠ .split) ∧
    (∃ t, step { zero .vwait .none with vrsp := some true, agenda := [.takeAnswer] } = .next t ∧
      t.regs.verdict ≠ .none ∧ t.regs.st ≠ .vwait) :=
  ⟨⟨_, rfl, by decide, by decide⟩, ⟨_, rfl, by decide, by decide, by decide⟩, ⟨_, rfl, by decide, by decide⟩,
    ⟨_, rfl, by decide⟩, ⟨_, rfl, by decide, by decide⟩⟩

theorem witness_VerdictStays : ∃ t, (zero .done .matched).regs.st = .done ∧ step (zero .done .matched) = .next t ∧
    ¬ (zero .done .matched).performs .clear ∧ ¬ (zero .done .matched).resets := by
  refine ⟨_, rfl, rfl, ?_, ?_⟩
  · rintro ⟨h, -⟩; cases h
  · rintro (h | ⟨h, -⟩ | ⟨h, -⟩) <;> cases h

/-- An answer on the channel, taken next, in VWAIT and in COLLECT. -/
def answering (v : Session) : State := { zero v .none with vrsp := some true, agenda := [.takeAnswer] }

theorem witness_StubResponseHandling :
    ((answering .vwait).agenda = .takeAnswer :: [] ∧ (answering .vwait).rst = false ∧
      (answering .vwait).vrsp = some true ∧ (answering .vwait).regs.st = .vwait) ∧
    (answering .collect).regs.st ≠ .vwait := by decide

/-- The request held by the stub, which answers next. -/
def stubHolds : State :=
  { zero .vwait .none with stub := some (requestOf (Regs.reset 3)), agenda := [.stubAnswer] }

theorem witness_StubProtocol :
    (∃ t m, step stubHolds = .next t ∧ t.vrsp = some m) ∧
    (∃ t q, step { waiting with agenda := [.stubAccept] } = .next t ∧ t.stub = some q) ∧
    stubHolds.moves .stubAnswer := ⟨⟨_, _, rfl, rfl⟩, ⟨_, _, rfl, rfl⟩, rfl⟩

theorem witness_OutstandingRequest :
    ((zero .done .matched).Inv ∧ ∃ t, exec .clear (zero .done .matched) = .next t ∧ t.rsp = some ⟨true, 0⟩) ∧
    (waiting.Inv ∧ waiting.regs.st = .vwait ∧ (∃ t, step waiting = .next t) ∧ ¬ waiting.resets) := by
  refine ⟨⟨zero_done_inv, _, rfl, rfl⟩, waiting_inv, rfl, ⟨_, rfl⟩, ?_⟩
  rintro (h | ⟨h, -⟩ | ⟨h, -⟩) <;> cases h

theorem witness_VerifyComparesEveryBit : (List.replicate 256 true).length ≤ 256 ∧ ([] : List Bool).length ≤ 256 :=
  ⟨Nat.le_of_eq List.length_replicate, Nat.zero_le _⟩

theorem witness_VerifyAsLeadingBits : (List.replicate 256 true).length ≤ 256 ∧
    (zero .done .matched).Inv ∧ (zero .done .matched).regs.st = .done ∧ (zero .done .matched).regs.wcount = 0 :=
  ⟨Nat.le_of_eq List.length_replicate, zero_done_inv, rfl, rfl⟩

/-- An offered word, which the BPS accepts, performs or loses to reset in the next step. -/
theorem witness_CommandLostToReset : (performing State.reset 0x1005).rst = false ∧
    (performing State.reset 0x1005).cmd = some 0x1005 := ⟨rfl, rfl⟩

/-- A stub response taken while reset is asserted; and a word offered while `rst` falls. -/
theorem witness_NothingHappensWhileReset :
    (∃ t, step { zero .collect .none with rst := true, vrsp := some true, agenda := [.takeAnswer] } = .next t) ∧
    (∃ t, step { zero .collect .none with rst := true, cmd := some 0x2800, agenda := [.releaseReset] } = .next t ∧
      t.rst = false) := ⟨⟨_, rfl⟩, ⟨_, rfl, rfl⟩⟩

/-- The premises of PackingAList, EntropyRoundTrip, EntropyAndChecksumAsIntegers, ChecksumSitsInTheLastIndex and
FlippedLastBitIsAMismatch: a sound, empty session of three words that can be sent to, and a full list for it. -/
theorem witness_sequences :
    (zero .collect .none).Inv ∧ (zero .collect .none).canSend ∧ (zero .collect .none).freshSession ∧
    ([0, 0, 1] : List Opnd).length ≤ (zero .collect .none).maxWords ∧ ([0, 0, 1] : List Opnd) ≠ [] ∧
    ([0, 0, 1] : List Opnd).length % 3 = 0 ∧
    ((([0, 0] : List Opnd).length + 1) % 3 = 0 ∧ ([0, 0] : List Opnd).length + 1 ≤ 33 ∧
      ([0, 0] : List Opnd).length + 1 ≤ (zero .collect .none).maxWords) ∧
    (([1, 2, 3, 4] : List Byte).length = 4 * 1 ∧ 3 * 1 ≤ (zero .collect .none).maxWords) :=
  ⟨zero_collect_inv, ⟨rfl, rfl⟩, ⟨rfl, rfl⟩, by decide, by decide, by decide, by decide, by decide⟩

/-- The last word of zeros whose checksum bit is the digest's first bit. -/
def matchingWord : Opnd := if digestBit (Config.H [0, 0, 0, 0]) 0 = true then 1 else 0

/-- The inner premise of FlippedLastBitIsAMismatch: a first session whose `Verify` answers Match, whatever `H` is. -/
theorem witness_FlippedLastBitIsAMismatch :
    ∃ t, sendCommands ((([0, 0] : List Opnd) ++ [matchingWord]).map .push ++ [.split]) (zero .collect .none) = .next t ∧
      verdictOf (entropyBytes t.regs) (checksumBits t.regs) = true := by
  have key : ∀ b : Bool, ∃ t, sendCommands ((([0, 0] : List Opnd) ++ [if b = true then 1 else 0]).map .push ++ [.split])
      (zero .collect .none) = .next t ∧ entropyBytes t.regs = [0, 0, 0, 0] ∧ checksumBits t.regs = [b] := by
    intro b
    cases b <;> exact ⟨_, rfl, by decide, by decide⟩
  obtain ⟨t, h, he, hc⟩ := key (digestBit (Config.H [0, 0, 0, 0]) 0)
  refine ⟨t, h, ?_⟩
  rw [he, hc]
  simp [verdictOf, bitsAgree]

theorem witness_TooManyWordsOverflow :
    (zero .collect .none).Inv ∧ (zero .collect .none).canSend ∧ (zero .collect .none).freshSession ∧
    (zero .collect .none).maxWords < ([0, 0, 1, 2] : List Opnd).length :=
  ⟨zero_collect_inv, ⟨rfl, rfl⟩, ⟨rfl, rfl⟩, by decide⟩

theorem witness_PollingEnds :
    waiting.Inv ∧ waiting.canSend ∧ waiting.regs.st = .vwait ∧ waiting.vreq = some (requestOf (Regs.reset 3)) :=
  ⟨waiting_inv, ⟨rfl, rfl⟩, rfl, rfl⟩

/-- A whole decode may begin in DONE; both a multiple of 3 and another length fit. -/
theorem witness_WholeDecode :
    (zero .done .matched).Inv ∧ (zero .done .matched).canSend ∧ (zero .done .matched).regs.st ≠ .vwait ∧
    (([0, 0, 1] : List Opnd).length = 3 * 1 ∧ ([0, 0, 1] : List Opnd).length ≤ (zero .done .matched).maxWords) ∧
    (([0, 1] : List Opnd).length % 3 ≠ 0 ∧ ([0, 1] : List Opnd).length ≤ (zero .done .matched).maxWords) :=
  ⟨zero_done_inv, ⟨rfl, rfl⟩, by decide, by decide, by decide⟩

end Sys2Proof.Tests
end

section
/-! SUPPORT. The reset state is sound, in every legal build (R7, R33, R210). -/

namespace Sys2Proof.Machine

open Sys2Proof

/-- R33: the reset registers are sound for any number of words; being in COLLECT, they meet the clauses about the other
session states for want of a premise. -/
theorem Regs.reset_sound (n : Nat) : (Regs.reset n).Sound n where
  bufLength := by simp
  countRange := Nat.zero_le n
  tailZero := fun p _ hp => bufBit_replicate_false hp
  collecting := fun _ => ⟨rfl, rfl, rfl, rfl⟩
  splitDone := by simp
  verdictDone := by simp
  errorCode := nofun
  overflowed := nofun
  badLength := nofun
  verdictTrue := nofun

/-- R34, R141: outside VWAIT, channels with no request and no answer on them are sound. -/
theorem State.channelsSound_of_empty {s : State} (hst : s.regs.st ≠ .vwait) (hreq : s.vreq = none)
    (hstub : s.stub = none) (hrsp : s.vrsp = none) : s.ChannelsSound where
  one := by simp [State.inFlight, hst, hreq, hstub, hrsp]
  placed := by simp [hreq]
  held := by simp [hstub]
  answered := by simp [hrsp]

/-- R210: the reset state of a legal build is sound. -/
theorem State.resetOf_inv {n : Nat} (hmin : 1 ≤ n) (hmax : n ≤ Config.maxWordsLimit) : (State.resetOf n).Inv where
  build := ⟨hmin, hmax⟩
  regs := Regs.reset_sound n
  channels := State.channelsSound_of_empty (by simp) rfl rfl rfl
  inReset := fun _ => rfl

/-- Settles O27: the reset state is sound in every legal build, and this hardware's `MAX_WORDS` is 24 (R7). -/
theorem resetStatesAreSound : Obligations.ResetStatesAreSound :=
  ⟨fun _ => State.resetOf_inv, rfl⟩

end Sys2Proof.Machine
end

section
/-! SUPPORT. What a command and a step can do to the whole state, said once each (R57, R58, R160, R210). -/

namespace Sys2Proof.Machine

open Sys2Proof

/-- The next states a command can answer, with what brings each about; `answered` is a response and nothing else, which
every command but CLEAR, PUSH, SPLIT and VERIFY gives always, and those four where they are rejected (R57, R186). -/
inductive CommandEffect (s : State) : Instr → State → Prop where
  | answered (i : Instr) (ok : Bool) (d : Word) : CommandEffect s i (s.respond ok d)
  | cleared (hst : s.regs.st ≠ .vwait) : CommandEffect s .clear (s.clearSession.respond true 0)
  | overflowed (idx : Opnd) (hst : s.regs.st = .collect) (hfull : s.regs.wcount.toNat = s.maxWords) :
      CommandEffect s (.push idx) (s.fatal .overflow)
  | packed (idx : Opnd) (hst : s.regs.st = .collect) (hroom : s.regs.wcount.toNat ≠ s.maxWords) :
      CommandEffect s (.push idx) ((s.withRegs (packIndex idx s.regs)).respond true 0)
  | badLength (hst : s.regs.st = .collect) (hkey : splitKey s.regs % 32 ≠ 0) :
      CommandEffect s .split ((s.withRegs (writeCounts s.regs)).fatal .invalidBitLength)
  | splitDone (hst : s.regs.st = .collect) (hkey : splitKey s.regs % 32 = 0) :
      CommandEffect s .split ((s.withRegs ((writeCounts s.regs).goto .split)).respond true 0)
  | requested (hst : s.regs.st = .split) :
      CommandEffect s .verify ((s.placeRequest.withRegs (s.regs.goto .vwait)).respond true 0)

/-- R180: every command answers a next state, one of those listed. -/
theorem exec_total (i : Instr) (s : State) : ∃ t, exec i s = .next t ∧ CommandEffect s i t := by
  cases i with
  | nop => exact ⟨_, rfl, .answered ..⟩
  | rdstat => exact ⟨_, rfl, .answered ..⟩
  | rdinfo sel => exact ⟨_, rfl, .answered ..⟩
  | clear =>
    rcases execClear_cases s with ⟨-, he⟩ | ⟨hst, he⟩
    · exact ⟨_, he, .answered ..⟩
    · exact ⟨_, he, .cleared hst⟩
  | push idx =>
    rcases execPush_cases idx s with ⟨-, he⟩ | ⟨hst, hfull, he⟩ | ⟨hst, hroom, he⟩
    · exact ⟨_, he, .answered ..⟩
    · exact ⟨_, he, .overflowed idx hst hfull⟩
    · exact ⟨_, he, .packed idx hst hroom⟩
  | split =>
    rcases execSplit_cases s with ⟨-, he⟩ | ⟨hst, hkey, he⟩ | ⟨hst, hkey, he⟩
    · exact ⟨_, he, .answered ..⟩
    · exact ⟨_, he, .badLength hst hkey⟩
    · exact ⟨_, he, .splitDone hst hkey⟩
  | verify =>
    rcases execVerify_cases s with ⟨-, he⟩ | ⟨hst, he⟩
    · exact ⟨_, he, .answered ..⟩
    · exact ⟨_, he, .requested hst⟩
  | rdbyte k =>
    rcases execRdbyte_cases k s with ⟨-, he⟩ | ⟨-, -, he⟩ | ⟨-, -, he⟩ <;> exact ⟨_, he, .answered ..⟩
  | rdcs j =>
    rcases execRdcs_cases j s with ⟨-, he⟩ | ⟨-, -, he⟩ | ⟨-, -, he⟩ <;> exact ⟨_, he, .answered ..⟩

/-- What a command answers is one of its effects. -/
theorem exec_effect {i : Instr} {s t : State} (h : exec i s = .next t) : CommandEffect s i t := by
  obtain ⟨u, hu, he⟩ := exec_total i s
  cases hu.symm.trans h
  exact he

/-- R32, R42, R160: a command writes the registers and the request channel, sends one response, and touches nothing
else of the state. -/
theorem CommandEffect.frame {i : Instr} {s t : State} (h : CommandEffect s i t) :
    ∃ (r : Regs) (q : Option Request) (a : Response), t = { s with regs := r, vreq := q, rsp := some a } := by
  cases h <;> exact ⟨_, _, _, rfl⟩

/-- A step whose next move is `m` makes that move. -/
theorem step_of_moves {s : State} {m : Move} (h : s.moves m) : step s = (moveAction m s.begin).outcome := by
  obtain ⟨ms, ha⟩ := List.head?_eq_some_iff.mp h
  exact step_of_agenda_cons s m ms ha

/-- At most one move is next. -/
theorem State.moves.not_of_ne {s : State} {m m' : Move} (h : s.moves m) (hne : m ≠ m') : ¬ s.moves m' :=
  fun h' => hne (Option.some.inj (h.symm.trans h'))

/-- R41, R73: a step that performs a command is its meaning, after the word has left the channel. -/
theorem step_of_performs {s : State} {i : Instr} (h : s.performs i) : step s = exec i s.begin.accept := by
  obtain ⟨hm, hrst, w, hcmd, hd⟩ := h
  simp only [step_of_moves hm, moveAction, acceptAction, State.begin_rst, State.begin_cmd, hrst, hcmd, hd,
    Action.outcome]

/-- R41, R42: an accepted word is answered, has left the channel, and the build and the other planned moves stay. -/
theorem step_perform {s : State} {w : Word} (hm : s.moves .perform) (hrst : s.rst = false) (hcmd : s.cmd = some w) :
    ∃ t, step s = .next t ∧ t.maxWords = s.maxWords ∧ t.cmd = none ∧ t.agenda = s.agenda.tail := by
  rw [step_of_moves hm, moveAction]
  rcases acceptAction_cases s.begin with ⟨_, i, -, -, -, he⟩ | ⟨_, e, -, -, -, he⟩ | ⟨hno, -⟩
  · obtain ⟨t, ht, heffect⟩ := exec_total i s.begin.accept
    obtain ⟨r, q, a, rfl⟩ := heffect.frame
    exact ⟨_, (congrArg Action.outcome he).trans ht, rfl, rfl, rfl⟩
  · exact ⟨_, congrArg Action.outcome he, rfl, rfl, rfl⟩
  · simp [hrst, hcmd] at hno

/-- R41: `cmd_ready` is 1 exactly when the BPS is to accept and reset is not asserted. -/
theorem State.cmdReady_iff {s : State} :
    s.cmdReady = true ↔ s.rst = false ∧ (s.moves .perform ∨ s.moves .loseToReset) := by
  simp [State.cmdReady, State.moves]

/-- R41: a move that is not the BPS's acceptance has `cmd_ready` at 0. -/
theorem State.moves.cmdReady_eq_false {s : State} {m : Move} (h : s.moves m) (hperform : m ≠ .perform)
    (hlose : m ≠ .loseToReset) : s.cmdReady = false := by
  have hhead : s.agenda.head? = some m := h
  simp [State.cmdReady, hhead, hperform, hlose]

/-- `rst` rises: the reset state of the build, but for `rst` itself, the host's word and the planned moves (R45, R210). -/
theorem step_assertReset {s : State} (h : s.moves .assertReset) :
    step s = .next { State.resetOf s.maxWords with rst := true, cmd := s.cmd, agenda := s.agenda.tail } :=
  step_of_moves h

/-- `rst` falls: the reset state of the build, but for the host's word and the planned moves (R210). -/
theorem step_releaseReset {s : State} (h : s.moves .releaseReset) (hrst : s.rst = true) :
    step s = .next { State.resetOf s.maxWords with cmd := s.cmd, agenda := s.agenda.tail } := by
  rw [step_of_moves h]
  simp only [moveAction, Action.outcome, dropsReset, State.begin_rst, hrst, if_true]
  rfl

/-- An accepted command is lost to a rising `rst`: as when `rst` rises, with the word gone (R210, item O9). -/
theorem step_loseToReset {s : State} {w : Word} (h : s.moves .loseToReset) (hrst : s.rst = false)
    (hcmd : s.cmd = some w) :
    step s = .next { State.resetOf s.maxWords with rst := true, agenda := s.agenda.tail } := by
  rw [step_of_moves h]
  simp only [moveAction, Action.outcome, losesToReset, State.begin_rst, State.begin_cmd, hrst, hcmd]
  rfl

/-- The next states a step can answer, with what brings each about. A step is `idle` where no move is planned or the
planned one is not enabled (log entry 5); of an acceptance and of an answer taken it is said what that means. -/
inductive StepEffect (s : State) : State → Prop where
  | idle (hcmd : s.cmdReady = true → s.cmd = none) (htake : s.moves .takeAnswer → s.vrsp = none) :
      StepEffect s s.begin
  | offered (w : Word) (hm : s.moves (.offer w)) (hcmd : s.cmd = none) : StepEffect s { s.begin with cmd := some w }
  | performed (i : Instr) (t : State) (hp : s.performs i) (he : CommandEffect s.begin.accept i t) : StepEffect s t
  | illegal (w : Word) (e : IllegalWord) (hm : s.moves .perform) (hrst : s.rst = false) (hcmd : s.cmd = some w)
      (hd : decode w = .illegal e) : StepEffect s (s.begin.accept.reject .illegal)
  | stubAccepted (q : Request) (hm : s.moves .stubAccept) (hrst : s.rst = false) (hreq : s.vreq = some q)
      (hstub : s.stub = none) : StepEffect s { s.begin with vreq := none, stub := some q }
  | stubAnswered (q : Request) (hm : s.moves .stubAnswer) (hrst : s.rst = false) (hstub : s.stub = some q)
      (hrsp : s.vrsp = none) : StepEffect s { s.begin with stub := none, vrsp := some (verdictOf q.msg q.cs) }
  | recorded (m : Bool) (hm : s.moves .takeAnswer) (hrsp : s.vrsp = some m) (hrst : s.rst = false)
      (hst : s.regs.st = .vwait) :
      StepEffect s { s.begin with vrsp := none, regs := { s.regs with verdict := Verdict.ofAnswer m, st := .done } }
  | discarded (m : Bool) (hm : s.moves .takeAnswer) (hrsp : s.vrsp = some m)
      (hwhy : s.rst = true ∨ s.regs.st ≠ .vwait) : StepEffect s { s.begin with vrsp := none }
  | raised (hm : s.moves .assertReset) :
      StepEffect s { State.resetOf s.maxWords with rst := true, cmd := s.cmd, agenda := s.agenda.tail }
  | released (hm : s.moves .releaseReset) (hrst : s.rst = true) :
      StepEffect s { State.resetOf s.maxWords with cmd := s.cmd, agenda := s.agenda.tail }
  | lost (w : Word) (hm : s.moves .loseToReset) (hrst : s.rst = false) (hcmd : s.cmd = some w) :
      StepEffect s { State.resetOf s.maxWords with rst := true, agenda := s.agenda.tail }

/-- A step whose move is neither the BPS's acceptance nor its taking an answer may be idle. -/
theorem StepEffect.idle_of_moves {s : State} {m : Move} (h : s.moves m) (hperform : m ≠ .perform)
    (hlose : m ≠ .loseToReset) (htake : m ≠ .takeAnswer) : StepEffect s s.begin :=
  .idle (by simp [h.cmdReady_eq_false hperform hlose])
    fun h' => absurd h' (h.not_of_ne htake)

/-- An acceptance planned while `rst` is 1 or no word is offered is idle (R41, R45). -/
theorem StepEffect.idle_of_not_accepted {s : State} {m : Move} (h : s.moves m) (htake : m ≠ .takeAnswer)
    (hno : s.rst = true ∨ s.cmd = none) : StepEffect s s.begin :=
  .idle (fun hready => hno.resolve_left (by simp [(State.cmdReady_iff.mp hready).1]))
    fun h' => absurd h' (h.not_of_ne htake)

/-- What a step answers is one of the listed effects: one move of one agent (R58). -/
theorem step_effect {s t : State} (h : step s = .next t) : StepEffect s t := by
  cases ha : s.agenda with
  | nil =>
    cases (step_of_agenda_nil s ha).symm.trans h
    exact .idle (by simp [State.cmdReady, ha]) (by simp [State.moves, ha])
  | cons m ms =>
    have hm : s.moves m := by simp [State.moves, ha]
    have hstep := (step_of_moves hm).symm.trans h
    cases m with
    | offer w =>
      cases hstep
      rcases hostOffers_cases w s.begin with ⟨hcmd, he⟩ | ⟨-, he⟩ <;> rw [he]
      · exact .offered w hm hcmd
      · exact .idle_of_moves hm nofun nofun nofun
    | perform =>
      rcases acceptAction_cases s.begin with ⟨w, i, hrst, hcmd, hd, he⟩ | ⟨w, e, hrst, hcmd, hd, he⟩ | ⟨hno, he⟩ <;>
        rw [moveAction, he] at hstep
      · exact .performed i t ⟨hm, hrst, w, hcmd, hd⟩ (exec_effect hstep)
      · cases hstep
        exact .illegal w e hm hrst hcmd hd
      · cases hstep
        exact .idle_of_not_accepted hm nofun hno
    | stubAccept =>
      cases hstep
      rcases stubAccepts_cases s.begin with ⟨q, hrst, hreq, hstub, he⟩ | he <;> rw [he]
      · exact .stubAccepted q hm hrst hreq hstub
      · exact .idle_of_moves hm nofun nofun nofun
    | stubAnswer =>
      cases hstep
      rcases stubAnswers_cases s.begin with ⟨q, hrst, hstub, hrsp, he⟩ | he <;> rw [he]
      · exact .stubAnswered q hm hrst hstub hrsp
      · exact .idle_of_moves hm nofun nofun nofun
    | takeAnswer =>
      cases hstep
      rcases takesResponse_cases s.begin with ⟨hrsp, he⟩ | ⟨m, hrsp, hrst, hst, he⟩ | ⟨m, hrsp, hwhy, he⟩ <;> rw [he]
      · exact .idle (by simp [hm.cmdReady_eq_false]) fun _ => hrsp
      · exact .recorded m hm hrsp hrst hst
      · exact .discarded m hm hrsp hwhy
    | assertReset =>
      cases (step_assertReset hm).symm.trans h
      exact .raised hm
    | releaseReset =>
      rcases dropsReset_cases s.begin with ⟨hrst, -⟩ | ⟨-, he⟩
      · cases (step_releaseReset hm hrst).symm.trans h
        exact .released hm hrst
      · cases hstep
        rw [he]
        exact .idle_of_moves hm nofun nofun nofun
    | loseToReset =>
      rcases losesToReset_cases s.begin with ⟨w, hrst, hcmd, -⟩ | ⟨hno, he⟩
      · cases (step_loseToReset hm hrst hcmd).symm.trans h
        exact .lost w hm hrst hcmd
      · cases hstep
        rw [he]
        exact .idle_of_not_accepted hm nofun hno

/-- A step that is a reset leaves every register at its reset value (R45, R210; log entry 9). -/
theorem step_regs_of_resets {s t : State} (hres : s.resets) (h : step s = .next t) : t.regs = Regs.reset s.maxWords := by
  rcases hres with hm | ⟨hm, hrst⟩ | ⟨hm, hrst, w, hcmd⟩
  · cases (step_assertReset hm).symm.trans h; rfl
  · cases (step_releaseReset hm hrst).symm.trans h; rfl
  · cases (step_loseToReset hm hrst hcmd).symm.trans h; rfl

/-- A step that answers `t` leaves the rest of the steps to be made from `t`. -/
theorem steps_succ_of_step {s t : State} (n : Nat) (h : step s = .next t) : steps (n + 1) s = steps n t := by
  simp only [steps, h]

/-- One step is the step. -/
theorem steps_one (s : State) : steps 1 s = step s := by
  unfold steps
  cases step s <;> rfl

end Sys2Proof.Machine
end

section
/-! SUPPORT. A step keeps a sound state sound (R23, R24, R33, R34, R141): first the register invariants, write by write,
then the channel invariants, move by move. -/

namespace Sys2Proof.Machine

open Sys2Proof

section RegisterInvariants
variable {n : Nat} {r : Regs}

/-- `WCOUNT + 1` is exact below the largest `MAX_WORDS` (R24). -/
theorem packIndex_wcount_toNat (idx : Opnd) (hlt : r.wcount.toNat < Config.maxWordsLimit) :
    (packIndex idx r).wcount.toNat = r.wcount.toNat + 1 := by
  simp only [Config.maxWordsLimit] at hlt
  exact BitVec.toNat_add_of_lt (show r.wcount.toNat + 1 < 2 ^ 10 by omega)

/-- R100: a packed index keeps sound registers sound, where the buffer has room for it. -/
theorem Regs.Sound.packIndex (h : r.Sound n) (hmax : n ≤ Config.maxWordsLimit) (hst : r.st = .collect)
    (hroom : r.wcount.toNat ≠ n) (idx : Opnd) : (packIndex idx r).Sound n := by
  have hlt : r.wcount.toNat < n := lt_of_le_of_ne h.countRange hroom
  have hcount := packIndex_wcount_toNat idx (hlt.trans_le hmax)
  exact
    { bufLength := (packIndex_buf_length idx r).trans h.bufLength
      countRange := by omega
      tailZero := fun p hp hpn => by
        have hp' : totalBits r + 11 ≤ p := by simp only [totalBits] at hp ⊢; omega
        have hfit : totalBits r + 11 ≤ r.buf.length := by rw [h.bufLength]; omega
        rw [bufBit_packIndex idx r p hfit, if_neg (by omega)]
        exact h.tailZero p (by omega) hpn
      collecting := fun _ => h.collecting hst
      splitDone := by simp [hst]
      verdictDone := h.verdictDone
      errorCode := h.errorCode
      overflowed := by simp [hst]
      badLength := by simp [hst]
      verdictTrue := by simp [hst] }

/-- R100, R188: the overflow of a full buffer. -/
theorem Regs.Sound.enterError_overflow (h : r.Sound n) (hst : r.st = .collect) (hfull : r.wcount.toNat = n) :
    (r.enterError .overflow).Sound n := by
  obtain ⟨hkey, hcs, -, hverdict⟩ := h.collecting hst
  exact
    { bufLength := h.bufLength
      countRange := h.countRange
      tailZero := h.tailZero
      collecting := nofun
      splitDone := by simp
      verdictDone := by simp
      errorCode := by simp [hst, hverdict]
      overflowed := fun _ _ => ⟨hfull, hkey, hcs⟩
      badLength := by simp [hst]
      verdictTrue := nofun }

/-- R110: the two counts of a split add up to the bits collected. -/
theorem splitKey_add_splitChecksum (r : Regs) : splitKey r + splitChecksum r = totalBits r := by
  simp only [splitKey, splitChecksum]
  omega

/-- R110, R188: a split of an invalid length. -/
theorem Regs.Sound.enterError_invalidBitLength (h : r.Sound n) (hst : r.st = .collect)
    (hkey : splitKey r % 32 ≠ 0) : ((writeCounts r).enterError .invalidBitLength).Sound n := by
  obtain ⟨-, -, -, hverdict⟩ := h.collecting hst
  exact
    { bufLength := h.bufLength
      countRange := h.countRange
      tailZero := h.tailZero
      collecting := nofun
      splitDone := by simp
      verdictDone := by simp
      errorCode := by simp [hst, hverdict]
      overflowed := by simp [hst]
      badLength := fun _ _ => by
        rw [Regs.enterError_keybits, Regs.enterError_csbits, writeCounts_keybits_toNat, writeCounts_csbits_toNat]
        exact ⟨splitKey_add_splitChecksum r, hkey⟩
      verdictTrue := nofun }

/-- R111: the key count is a multiple of 32 only when `WCOUNT` is a multiple of 3. -/
theorem wcount_mod_three_of_splitKey (hkey : splitKey r % 32 = 0) : r.wcount.toNat % 3 = 0 := by
  simp only [splitKey, splitChecksum, totalBits] at hkey
  omega

/-- R110: a valid split. -/
theorem Regs.Sound.writeCounts_goto_split (h : r.Sound n) (hst : r.st = .collect) (hkey : splitKey r % 32 = 0) :
    ((writeCounts r).goto .split).Sound n := by
  obtain ⟨-, -, herr, hverdict⟩ := h.collecting hst
  exact
    { bufLength := h.bufLength
      countRange := h.countRange
      tailZero := h.tailZero
      collecting := nofun
      splitDone := fun _ => by
        rw [Regs.goto_keybits, Regs.goto_csbits, writeCounts_keybits_toNat, writeCounts_csbits_toNat]
        exact ⟨splitKey_add_splitChecksum r, rfl, hkey, wcount_mod_three_of_splitKey hkey, herr⟩
      verdictDone := by simp [hverdict]
      errorCode := nofun
      overflowed := nofun
      badLength := nofun
      verdictTrue := nofun }

/-- R140: the session waits for the stub. -/
theorem Regs.Sound.goto_vwait (h : r.Sound n) (hst : r.st = .split) : (r.goto .vwait).Sound n where
  bufLength := h.bufLength
  countRange := h.countRange
  tailZero := h.tailZero
  collecting := nofun
  splitDone := fun _ => h.splitDone (.inl hst)
  verdictDone := by simpa [hst] using h.verdictDone
  errorCode := nofun
  overflowed := nofun
  badLength := nofun
  verdictTrue := nofun

/-- A recorded answer is a verdict (R142). -/
theorem Verdict.ofAnswer_ne_none (m : Bool) : Verdict.ofAnswer m ≠ .none := by
  cases m <;> decide

/-- R142: the answer recorded, where it is `Verify` of the session's bits (R144). -/
theorem Regs.Sound.record (h : r.Sound n) (hst : r.st = .vwait) {m : Bool}
    (hm : m = verdictOf (entropyBytes r) (checksumBits r)) :
    Regs.Sound n { r with verdict := Verdict.ofAnswer m, st := .done } where
  bufLength := h.bufLength
  countRange := h.countRange
  tailZero := h.tailZero
  collecting := nofun
  splitDone := fun _ => h.splitDone (.inr (.inl hst))
  verdictDone := by simp [Verdict.ofAnswer_ne_none]
  errorCode := nofun
  overflowed := nofun
  badLength := nofun
  verdictTrue := fun _ => congrArg Verdict.ofAnswer hm

end RegisterInvariants

/-- No request is on its way exactly when the three channels of R141 are empty. -/
theorem State.inFlight_eq_zero_iff {s : State} :
    s.inFlight = 0 ↔ s.vreq = none ∧ s.stub = none ∧ s.vrsp = none := by
  simp [State.inFlight, and_assoc]

/-- R34: outside VWAIT nothing is outstanding. -/
theorem State.ChannelsSound.empty {s : State} (h : s.ChannelsSound) (hst : s.regs.st ≠ .vwait) :
    s.vreq = none ∧ s.stub = none ∧ s.vrsp = none :=
  State.inFlight_eq_zero_iff.mp (h.one.trans (if_neg hst))

section StateInvariant
variable {s : State}

/-- Soundness does not depend on the command channel, the response channel or the planned moves. -/
theorem State.Inv.withHostSide (h : s.Inv) (c : Option Word) (a : Option Response) (ms : List Move) :
    State.Inv { s with cmd := c, rsp := a, agenda := ms } :=
  ⟨h.build, h.regs, ⟨h.channels.one, h.channels.placed, h.channels.held, h.channels.answered⟩, h.inReset⟩

/-- Outside VWAIT, before and after, only the registers have to be sound again. -/
theorem State.Inv.withQuietRegs (h : s.Inv) (hrst : s.rst = false) (hst : s.regs.st ≠ .vwait) {r : Regs}
    (hr : r.Sound s.maxWords) (hst' : r.st ≠ .vwait) (a : Option Response) :
    State.Inv { s with regs := r, rsp := a } := by
  obtain ⟨hreq, hstub, hrsp⟩ := h.channels.empty hst
  exact ⟨h.build, hr, State.channelsSound_of_empty hst' hreq hstub hrsp, by simp [hrst]⟩

/-- While `rst` is 1 the session is in COLLECT (log entry 9). -/
theorem State.Inv.st_of_rst (h : s.Inv) (hrst : s.rst = true) : s.regs.st = .collect := by
  rw [h.inReset hrst]; rfl

/-- R210: the reset state of a legal build with what the host and the platform keep of it. -/
theorem State.Inv.reset (h : s.Inv) (b : Bool) (c : Option Word) (ms : List Move) :
    State.Inv { State.resetOf s.maxWords with rst := b, cmd := c, agenda := ms } :=
  ⟨h.build, Regs.reset_sound _, State.channelsSound_of_empty (by simp) rfl rfl rfl, fun _ => rfl⟩

/-- R140, R141: a VERIFY in SPLIT makes its request the one outstanding. -/
theorem State.Inv.requested (h : s.Inv) (hrst : s.rst = false) (hst : s.regs.st = .split) :
    ((s.placeRequest.withRegs (s.regs.goto .vwait)).respond true 0).Inv := by
  obtain ⟨-, hstub, hrsp⟩ := h.channels.empty (by simp [hst])
  exact
    { build := h.build
      regs := h.regs.goto_vwait hst
      channels :=
        { one := by simp [State.inFlight, hstub, hrsp]
          placed := fun q hq => (Option.some.inj hq).symm
          held := by simp [hstub]
          answered := by simp [hrsp] }
      inReset := by simp [hrst] }

/-- R57, R160: a command keeps a sound state sound. -/
theorem CommandEffect.keeps_inv {i : Instr} {t : State} (he : CommandEffect s i t) (h : s.Inv)
    (hrst : s.rst = false) : t.Inv := by
  cases he with
  | answered ok d => exact h.withHostSide ..
  | cleared hst => exact h.withQuietRegs hrst hst (Regs.reset_sound _) (by simp) _
  | overflowed idx hst hfull =>
    exact h.withQuietRegs hrst (by simp [hst]) (h.regs.enterError_overflow hst hfull) (by simp) _
  | packed idx hst hroom =>
    exact h.withQuietRegs hrst (by simp [hst]) (h.regs.packIndex h.build.2 hst hroom idx) (by simp [hst]) _
  | badLength hst hkey =>
    exact h.withQuietRegs hrst (by simp [hst]) (h.regs.enterError_invalidBitLength hst hkey) (by simp) _
  | splitDone hst hkey =>
    exact h.withQuietRegs hrst (by simp [hst]) (h.regs.writeCounts_goto_split hst hkey) (by simp) _
  | requested hst => exact h.requested hrst hst

/-- R141: the request the stub accepts is the one placed. -/
theorem State.Inv.stubAccepted (h : s.Inv) {q : Request} (hreq : s.vreq = some q) (hstub : s.stub = none) :
    State.Inv { s with vreq := none, stub := some q } where
  build := h.build
  regs := h.regs
  channels :=
    { one := by simpa [State.inFlight, hreq, hstub] using h.channels.one
      placed := nofun
      held := by simpa using h.channels.placed q hreq
      answered := h.channels.answered }
  inReset := h.inReset

/-- R144, R146: the stub's answer is `Verify` of the session's bits, as the request it holds carries them. -/
theorem State.Inv.stubAnswered (h : s.Inv) {q : Request} (hstub : s.stub = some q) (hrsp : s.vrsp = none) :
    State.Inv { s with stub := none, vrsp := some (verdictOf q.msg q.cs) } where
  build := h.build
  regs := h.regs
  channels :=
    { one := by simpa [State.inFlight, hstub, hrsp] using h.channels.one
      placed := h.channels.placed
      held := nofun
      answered := by simp [h.channels.held q hstub, requestOf] }
  inReset := h.inReset

/-- R142: the answer taken in VWAIT leaves nothing outstanding, and is the verdict. -/
theorem State.Inv.recorded (h : s.Inv) {m : Bool} (hrsp : s.vrsp = some m) (hrst : s.rst = false)
    (hst : s.regs.st = .vwait) :
    State.Inv { s with vrsp := none, regs := { s.regs with verdict := Verdict.ofAnswer m, st := .done } } := by
  obtain ⟨hreq, hstub⟩ : s.vreq = none ∧ s.stub = none := by
    simpa [State.inFlight, hrsp, hst] using h.channels.one
  exact ⟨h.build, h.regs.record hst (h.channels.answered m hrsp),
    State.channelsSound_of_empty (by simp) hreq hstub rfl, by simp [hrst]⟩

/-- R141: in a sound state no answer is ever discarded. -/
theorem State.Inv.not_discarded (h : s.Inv) {m : Bool} (hrsp : s.vrsp = some m) :
    ¬ (s.rst = true ∨ s.regs.st ≠ .vwait) := by
  intro hwhy
  have hst : s.regs.st ≠ .vwait := hwhy.elim (fun hrst => by simp [h.st_of_rst hrst]) id
  obtain ⟨-, -, hnone⟩ := h.channels.empty hst
  simp [hrsp] at hnone

/-- R23, R33, R34, R141: each thing a step can do keeps a sound state sound. -/
theorem StepEffect.keeps_inv {t : State} (he : StepEffect s t) (h : s.Inv) : t.Inv := by
  have hbegin : s.begin.Inv := h.withHostSide ..
  cases he with
  | idle => exact hbegin
  | offered w => exact hbegin.withHostSide ..
  | performed i t hp hcommand =>
    obtain ⟨-, hrst, -⟩ := hp
    exact hcommand.keeps_inv (hbegin.withHostSide ..) hrst
  | illegal w => exact h.withHostSide ..
  | stubAccepted q hm hrst hreq hstub => exact hbegin.stubAccepted hreq hstub
  | stubAnswered q hm hrst hstub hrsp => exact hbegin.stubAnswered hstub hrsp
  | recorded m hm hrsp hrst hst => exact hbegin.recorded hrsp hrst hst
  | discarded m hm hrsp hwhy => exact absurd hwhy (h.not_discarded hrsp)
  | raised => exact h.reset ..
  | released => exact h.reset ..
  | lost => exact h.reset ..

end StateInvariant

/-- Settles O28: the invariants are inductive, effect by effect of a step, whatever `H` is. -/
theorem everyStepKeepsTheInvariants : Obligations.EveryStepKeepsTheInvariants :=
  fun _ _ hinv hstep => (step_effect hstep).keeps_inv hinv

end Sys2Proof.Machine
end

section
/-! SUPPORT. What a step leaves unchanged and what changes what: responses, acceptance, the registers' writers, reset
(R25, R32, R41, R42, R45, R210). -/

namespace Sys2Proof.Machine

open Sys2Proof

/-- Settles O20: the frame of a command's effect; the request channel, the verdict and the reads by the cases. -/
theorem frameOfEveryCommand : Obligations.FrameOfEveryCommand := by
  intro i s t h
  have heffect := exec_effect h
  refine ⟨?_, ?_⟩
  · obtain ⟨r, q, a, rfl⟩ := heffect.frame
    exact ⟨rfl, rfl, rfl, rfl, rfl, rfl⟩
  · cases heffect with
    | answered ok d => exact ⟨fun _ => rfl, fun _ => rfl, fun _ => rfl⟩
    | cleared => exact ⟨fun _ => rfl, fun hne => absurd rfl hne, by simp⟩
    | overflowed | packed | badLength | splitDone => exact ⟨fun _ => rfl, fun _ => rfl, by simp⟩
    | requested => exact ⟨fun hne => absurd rfl hne, fun _ => rfl, by simp⟩

/-- Settles O7: the state the command is performed at, field by field. -/
theorem stepRunsTheDecodedCommand : Obligations.StepRunsTheDecodedCommand := by
  intro s w i ms ha hrst hcmd hd
  have hp : s.performs i := ⟨by simp [State.moves, ha], hrst, w, hcmd, hd⟩
  rw [step_of_performs hp]
  simp [State.begin, State.accept, ha]

/-- Of a step from `s` to `t`: there is a response exactly for a performed word, and the command channel is freed exactly
by acceptance (R41, R42). -/
def AnswersWhatItPerforms (s t : State) : Prop :=
  ((∃ r, t.rsp = some r) ↔ s.moves .perform ∧ s.rst = false ∧ ∃ w, s.cmd = some w) ∧
  (s.cmdReady = true → t.cmd = none) ∧
  (s.cmdReady = false → ∀ w, s.cmd = some w → t.cmd = some w)

/-- An offered word performed, answered and gone from the channel. -/
theorem AnswersWhatItPerforms.of_answered {s t : State} {w : Word} {a : Response} (hm : s.moves .perform)
    (hrst : s.rst = false) (hcmd : s.cmd = some w) (hrsp : t.rsp = some a) (hgone : t.cmd = none) :
    AnswersWhatItPerforms s t := by
  have hready : s.cmdReady = true := State.cmdReady_iff.mpr ⟨hrst, .inl hm⟩
  simp [AnswersWhatItPerforms, hm, hrst, hcmd, hrsp, hgone, hready]

/-- A move that accepts nothing, without a response and with an offered word kept. -/
theorem AnswersWhatItPerforms.of_not_accepting {s t : State} {m : Move} (hm : s.moves m) (hperform : m ≠ .perform)
    (hlose : m ≠ .loseToReset) (hrsp : t.rsp = none) (hkept : ∀ w, s.cmd = some w → t.cmd = some w) :
    AnswersWhatItPerforms s t := by
  have hready : s.cmdReady = false := hm.cmdReady_eq_false hperform hlose
  have hnot : ¬ s.moves .perform := hm.not_of_ne hperform
  exact ⟨by simp [hrsp, hnot], by simp [hready], fun _ => hkept⟩

/-- Settles O9: effect by effect of a step; only a performed or an ILLEGAL word is answered, and these two and the word
lost to reset are the accepted ones. -/
theorem oneResponsePerAcceptedCommand : Obligations.OneResponsePerAcceptedCommand := by
  intro s t h
  change AnswersWhatItPerforms s t
  cases step_effect h with
  | idle hcmd =>
    have hnot : ¬ (s.moves .perform ∧ s.rst = false ∧ ∃ w, s.cmd = some w) := by
      rintro ⟨hm, hrst, w, hw⟩
      simp [hcmd (State.cmdReady_iff.mpr ⟨hrst, .inl hm⟩)] at hw
    exact ⟨by simp [hnot], hcmd, fun _ _ hw => hw⟩
  | performed i t hp he =>
    obtain ⟨hm, hrst, w, hcmd, -⟩ := hp
    obtain ⟨r, q, a, rfl⟩ := he.frame
    exact .of_answered hm hrst hcmd rfl rfl
  | illegal w e hm hrst hcmd => exact .of_answered hm hrst hcmd rfl rfl
  | lost w hm hrst =>
    have hnot : ¬ s.moves .perform := hm.not_of_ne nofun
    have hready : s.cmdReady = true := State.cmdReady_iff.mpr ⟨hrst, .inr hm⟩
    exact ⟨by simp [hnot], fun _ => rfl, by simp [hready]⟩
  | offered w hm hcmd => exact .of_not_accepting hm nofun nofun rfl (by simp [hcmd])
  | stubAccepted _ hm | stubAnswered _ hm | recorded _ hm | discarded _ hm | raised hm | released hm =>
    exact .of_not_accepting hm nofun nofun rfl fun _ hw => hw

/-- No step writes `MAX_WORDS` (log entry 1). -/
theorem StepEffect.maxWords_eq {s t : State} (h : StepEffect s t) : t.maxWords = s.maxWords := by
  cases h with
  | performed i t hp he =>
    obtain ⟨r, q, a, rfl⟩ := he.frame
    rfl
  | _ => rfl

/-- Settles O29: the model's cases of a register change, and for a command its effects. -/
theorem sessionStateChangesOnlyAsListed : Obligations.SessionStateChangesOnlyAsListed := by
  intro s t h hne
  rcases step_regs_cases h with hsame | hres | ⟨hm, hst, v, hr⟩ | ⟨i, hp, he⟩
  · exact absurd (congrArg Regs.st hsame) hne
  · have hcollect : t.regs.st = .collect := by rw [step_regs_of_resets hres h]; rfl
    exact .inr (.inr (.inr (.inr (.inr ⟨hcollect, hres⟩))))
  · have hdone : t.regs.st = .done := by rw [hr]
    exact .inr (.inr (.inr (.inl ⟨hst, hdone, hm⟩)))
  · cases exec_effect he with
    | answered | packed => exact absurd rfl hne
    | splitDone hst => exact .inl ⟨hst, rfl, hp⟩
    | badLength hst => exact .inr (.inl ⟨hst, rfl, .inl hp⟩)
    | overflowed idx hst => exact .inr (.inl ⟨hst, rfl, .inr ⟨idx, hp⟩⟩)
    | requested hst => exact .inr (.inr (.inl ⟨hst, rfl, hp⟩))
    | cleared hst => exact .inr (.inr (.inr (.inr (.inl ⟨hst, rfl, hp⟩))))

/-- Settles O30: the model's cases of a register change, and for a command which registers its effects write. -/
theorem registersAreWrittenOnlyByTheirWriters : Obligations.RegistersAreWrittenOnlyByTheirWriters := by
  intro s t h
  refine ⟨(step_effect h).maxWords_eq, ?_⟩
  rcases step_regs_cases h with hsame | hres | ⟨hm, hst, v, hr⟩ | ⟨i, hp, he⟩
  · simp [hsame]
  · exact .inl hres
  · simp [hr, hm, hst]
  · cases exec_effect he with
    | answered => simp
    | cleared => exact .inr (.inl hp)
    | overflowed idx | packed idx =>
      have hpush : ∃ idx, s.performs (.push idx) := ⟨idx, hp⟩
      simp [hpush]
    | badLength | splitDone | requested => simp [hp]

/-- Settles O37: `rst` rises, then falls. -/
theorem resetFromEveryState : Obligations.ResetFromEveryState := by
  intro s ms
  have hrise := step_assertReset (s := s.plan (.assertReset :: .releaseReset :: ms)) rfl
  rw [steps_succ_of_step 1 hrise, steps_one]
  exact step_releaseReset rfl rfl

/-- Settles O38: both orders end in the reset state with `rst` 1, since reset forgets whatever the word did. -/
theorem commandLostToReset : Obligations.CommandLostToReset := by
  intro s w ms hrst hcmd
  have hlost := step_loseToReset (s := s.plan (.loseToReset :: ms)) rfl hrst hcmd
  refine ⟨hlost, ?_⟩
  obtain ⟨t, ht, hmax, hnone, hagenda⟩ := step_perform (s := s.plan (.perform :: .assertReset :: ms)) rfl hrst hcmd
  have hm : t.moves .assertReset := by simp [State.moves, hagenda]
  rw [steps_succ_of_step 1 ht, steps_one, step_assertReset hm, hlost]
  simp [hmax, hnone, hagenda]

/-- Settles O39: with `rst` 1, the effects left are an idle step, an offer, an answer discarded, and reset's own. -/
theorem nothingHappensWhileResetIsAsserted : Obligations.NothingHappensWhileResetIsAsserted := by
  intro s t hrst h
  cases step_effect h with
  | idle _ htake => simpa [hrst] using htake
  | offered w hm hcmd =>
    have hnot : ¬ s.moves .takeAnswer := hm.not_of_ne nofun
    simp [hrst, hcmd, hnot]
  | discarded m hm hrsp hwhy => simp [hrst]
  | raised hm =>
    have hnot : ¬ s.moves .takeAnswer := hm.not_of_ne nofun
    simp [hnot]
  | released hm =>
    have hnot : ¬ s.moves .takeAnswer := hm.not_of_ne nofun
    simp [hnot, State.inFlight]
  | performed i t hp =>
    obtain ⟨-, hlow, -⟩ := hp
    simp [hrst] at hlow
  | illegal _ _ _ hlow | stubAccepted _ _ hlow | stubAnswered _ _ hlow | recorded _ _ _ hlow | lost _ _ hlow =>
    simp [hrst] at hlow

end Sys2Proof.Machine
end

section
/-! SUPPORT. What the host's sending of commands comes to (R41, R58, R60): decoding undoes encoding, and each command is
performed at the state the one before it has left. -/

namespace Sys2Proof.Machine

open Sys2Proof

/-- R70 to R73: the word of a command decodes to it. -/
@[simp] theorem decode_encode (i : Instr) : decode (encode i) = .command i := by
  cases i with
  | push | rdbyte | rdcs => simp only [decode, encode, opField_append, opndField_append]; rfl
  | rdinfo sel => cases sel <;> decide
  | nop | clear | split | verify | rdstat => decide

/-- R57: a command reads neither the response before it nor the planned moves; it replaces the one and keeps the other. -/
theorem exec_withHostSide {i : Instr} {s t : State} (h : exec i s = .next t) (a : Option Response) (ms : List Move) :
    exec i { s with rsp := a, agenda := ms } = .next (t.plan ms) := by
  cases i with
  | nop | rdstat | rdinfo => cases h; rfl
  | clear | push | split | verify | rdbyte | rdcs =>
    simp only [exec, execClear, execPush, execSplit, execVerify, execRdbyte, execRdcs] at h ⊢
    split_ifs at h ⊢ <;> cases h <;> rfl

/-- R41: a command leaves the block ready for the next one. -/
theorem exec_canSend {i : Instr} {s t : State} (h : exec i s = .next t) (hs : s.canSend) : t.canSend := by
  obtain ⟨r, q, a, rfl⟩ := (exec_effect h).frame
  exact hs

/-- R41: the host's offer to a free command channel puts the word on it. -/
theorem step_offer {s : State} {w : Word} (hm : s.moves (.offer w)) (hcmd : s.cmd = none) :
    step s = .next { s.begin with cmd := some w } := by
  rw [step_of_moves hm]
  simp only [moveAction, Action.outcome, hostOffers, State.begin_cmd, hcmd, if_true]

/-- R41, R58: a command whose word is placed is performed, with the moves behind it left to be made. -/
theorem step_placeWord {i : Instr} {s t : State} (hs : s.canSend) (h : exec i s = .next t) (a : Option Response)
    (ms : List Move) : step (State.placeWord { s with rsp := a, agenda := ms } (encode i)) = .next (t.plan ms) := by
  obtain ⟨hrst, hcmd⟩ := hs
  have hp : (State.placeWord { s with rsp := a, agenda := ms } (encode i)).performs i :=
    ⟨rfl, rfl, _, rfl, decode_encode i⟩
  rw [step_of_performs hp, ← exec_withHostSide h none ms]
  simp [State.begin, State.accept, State.placeWord, hrst, hcmd]

/-- R41, R58: the two moves of sending a command perform it. -/
theorem steps_send {i : Instr} {s t : State} (hs : s.canSend) (h : exec i s = .next t) (n : Nat) (ms : List Move) :
    steps (n + 2) (s.plan (sendMoves (encode i) ++ ms)) = steps n (t.plan ms) := by
  have ⟨hrst, hcmd⟩ := hs
  have hoffer : step (s.plan (sendMoves (encode i) ++ ms)) =
      .next (State.placeWord { s with rsp := none, agenda := ms } (encode i)) := by
    have hm : (s.plan (sendMoves (encode i) ++ ms)).moves (.offer (encode i)) := rfl
    rw [step_offer hm hcmd]
    simp [State.begin, State.placeWord, State.plan, sendMoves, hrst]
  rw [steps_succ_of_step _ hoffer, steps_succ_of_step _ (step_placeWord hs h none ms)]

/-- Sending nothing only empties the plan. -/
theorem sendCommands_nil (s : State) : sendCommands [] s = .next (s.plan []) := rfl

/-- R60: sending a list of commands performs the first and sends the others. -/
theorem sendCommands_cons {i : Instr} {s t : State} (hs : s.canSend) (h : exec i s = .next t) (is : List Instr) :
    sendCommands (i :: is) s = sendCommands is t :=
  steps_send hs h _ _

/-- R60: sending one list of commands after another. -/
theorem sendCommands_append {is : List Instr} {s t : State} (hs : s.canSend) (h : sendCommands is s = .next t)
    (js : List Instr) : sendCommands (is ++ js) s = sendCommands js t := by
  induction is generalizing s with
  | nil => cases h; rfl
  | cons i is ih =>
    obtain ⟨u, hu, -⟩ := exec_total i s
    rw [sendCommands_cons hs hu] at h
    rw [List.cons_append, sendCommands_cons hs hu]
    exact ih (exec_canSend hu hs) h

/-- Sending one command performs it. -/
theorem sendCommands_singleton {i : Instr} {s t : State} (hs : s.canSend) (h : exec i s = .next t) :
    sendCommands [i] s = .next (t.plan []) :=
  sendCommands_cons hs h []

end Sys2Proof.Machine
end

section
/-! SUPPORT. Numbers read most significant bit first (R13): a number in two parts, in groups of equal width, and of a bit
vector's own bits; so the entropy is one number (R51, R120). -/

namespace Sys2Proof.Machine

open Sys2Proof

/-- A number in two parts: the first `m` bits stand above the last `n`. -/
theorem msbFirst_add (m n : Nat) (f : Nat → Bool) :
    msbFirst (m + n) f = msbFirst m f * 2 ^ n + msbFirst n fun t => f (m + t) := by
  induction n with
  | zero => simp
  | succ n ih =>
    rw [← Nat.add_assoc, msbFirst_succ, ih, msbFirst_succ, pow_succ]
    ring

/-- A number in `n` groups of `w` bits: the base-`2 ^ w` value of the groups, the first one most significant. -/
theorem msbFirst_mul (w n : Nat) (f : Nat → Bool) :
    msbFirst (w * n) f =
      ((List.range n).map fun j => (msbFirst w fun t => f (w * j + t)) * 2 ^ (w * (n - 1 - j))).sum := by
  induction n with
  | zero => simp
  | succ n ih =>
    have hshift : ∀ j ∈ List.range n, (msbFirst w fun t => f (w * j + t)) * 2 ^ (w * (n + 1 - 1 - j)) =
        (msbFirst w fun t => f (w * j + t)) * 2 ^ (w * (n - 1 - j)) * 2 ^ w := by
      intro j hj
      have hexp : n + 1 - 1 - j = (n - 1 - j) + 1 := by have := List.mem_range.mp hj; omega
      rw [hexp, Nat.mul_succ, pow_add, Nat.mul_assoc]
    rw [Nat.mul_succ, msbFirst_add, ih, List.range_succ, List.map_append, List.sum_append, List.map_congr_left hshift,
      List.sum_map_mul_right]
    simp

/-- The first part of a number is its quotient by the second part's power of two. -/
theorem msbFirst_add_div (m n : Nat) (f : Nat → Bool) : msbFirst (m + n) f / 2 ^ n = msbFirst m f := by
  rw [msbFirst_add, Nat.mul_comm, Nat.mul_add_div (by positivity), Nat.div_eq_of_lt (msbFirst_lt ..), Nat.add_zero]

/-- The second part of a number is its remainder by that part's power of two. -/
theorem msbFirst_add_mod (m n : Nat) (f : Nat → Bool) :
    msbFirst (m + n) f % 2 ^ n = msbFirst n fun t => f (m + t) := by
  rw [msbFirst_add, Nat.mul_add_mod_self_right, Nat.mod_eq_of_lt (msbFirst_lt ..)]

/-- A bit vector's bits, the most significant first, are its value. -/
theorem msbFirst_getLsbD {w : Nat} (x : BitVec w) : (msbFirst w fun t => x.getLsbD (w - 1 - t)) = x.toNat := by
  apply Nat.eq_of_testBit_eq
  intro b
  by_cases hb : b < w
  · have ht := msbFirst_testBit w (fun t => x.getLsbD (w - 1 - t)) (t := w - 1 - b) (by omega)
    have hback : w - 1 - (w - 1 - b) = b := by omega
    simpa only [hback, BitVec.testBit_toNat] using ht
  · have hpow : 2 ^ w ≤ 2 ^ b := Nat.pow_le_pow_right (by omega) (by omega)
    rw [Nat.testBit_lt_two_pow ((msbFirst_lt ..).trans_le hpow), Nat.testBit_lt_two_pow (x.isLt.trans_le hpow)]

/-- An entropy byte is the number its eight bits make (R120). -/
theorem entropyByte_toNat (r : Regs) (k : Nat) :
    (entropyByte r k).toNat = msbFirst 8 fun t => bufBit r.buf (8 * k + t) := by
  rw [entropyByte, bitsRead, BitVec.toNat_ofNat, Nat.mod_eq_of_lt (msbFirst_lt ..)]

/-- R51, R120: the entropy bytes as one big-endian number are the first `KEYBITS` bits of the buffer. -/
theorem entropy_value (r : Regs) (hbytes : 8 * entropyLen r = r.keybits.toNat) :
    ((List.range (entropyLen r)).map fun k => (entropyByte r k).toNat * 2 ^ (8 * (entropyLen r - 1 - k))).sum =
      msbFirst r.keybits.toNat (bufBit r.buf) := by
  simp only [entropyByte_toNat, ← hbytes, msbFirst_mul]

end Sys2Proof.Machine
end

section
/-! SUPPORT. The registers of a fresh session after a list of pushed indices, and after the split of them (R101, R110). -/

namespace Sys2Proof.Machine

open Sys2Proof

/-- The registers after the indices `ws` are packed, from reset, in a build of `n` words (R101). -/
def packedRegs (n : Nat) (ws : List Opnd) : Regs := ws.foldl (fun r w => packIndex w r) (Regs.reset n)

/-- R162, R210: a sound, empty session has every register at its reset value. -/
theorem State.Inv.regs_of_freshSession {s : State} (h : s.Inv) (hfresh : s.freshSession) :
    s.regs = Regs.reset s.maxWords := by
  obtain ⟨hst, hcount⟩ := hfresh
  obtain ⟨hkey, hcs, herr, hverdict⟩ := h.regs.collecting hst
  have hbuf : s.regs.buf = List.replicate (11 * s.maxWords) false := by
    refine List.eq_replicate_iff.mpr ⟨h.regs.bufLength, fun b hb => ?_⟩
    obtain ⟨p, hp, rfl⟩ := List.mem_iff_getElem.mp hb
    have hzero := h.regs.tailZero p (by simp [totalBits, hcount]) (h.regs.bufLength ▸ hp)
    simpa [bufBit, List.getD_eq_getElem?_getD, hp] using hzero
  calc s.regs = ⟨s.regs.buf, s.regs.wcount, s.regs.st, s.regs.keybits, s.regs.csbits, s.regs.err, s.regs.verdict⟩ := rfl
    _ = Regs.reset s.maxWords := by rw [hbuf, hcount, hst, hkey, hcs, herr, hverdict]; rfl

section PackedRegs
variable {n : Nat} {ws : List Opnd}

/-- One more index is packed behind the others. -/
theorem packedRegs_concat (n : Nat) (ws : List Opnd) (x : Opnd) :
    packedRegs n (ws ++ [x]) = packIndex x (packedRegs n ws) := by
  simp [packedRegs]

/-- Packing indices does not leave COLLECT. -/
@[simp] theorem packedRegs_st (n : Nat) (ws : List Opnd) : (packedRegs n ws).st = .collect := by
  induction ws using List.reverseRecOn with
  | nil => rfl
  | append_singleton ws x ih => rw [packedRegs_concat, packIndex_st, ih]

/-- `WCOUNT` counts the indices. -/
theorem packedRegs_wcount (n : Nat) (hmax : ws.length ≤ Config.maxWordsLimit) :
    (packedRegs n ws).wcount.toNat = ws.length := by
  induction ws using List.reverseRecOn with
  | nil => rfl
  | append_singleton ws x ih =>
    rw [List.length_append, List.length_singleton] at hmax ⊢
    have hcount := ih (by omega)
    rw [packedRegs_concat, packIndex_wcount_toNat x (by omega), hcount]

/-- R23, R33: the packed registers are sound. -/
theorem packedRegs_sound (hmax : n ≤ Config.maxWordsLimit) (hfit : ws.length ≤ n) : (packedRegs n ws).Sound n := by
  induction ws using List.reverseRecOn with
  | nil => exact Regs.reset_sound n
  | append_singleton ws x ih =>
    rw [List.length_append, List.length_singleton] at hfit
    have hcount := packedRegs_wcount n (ws := ws) (by omega)
    rw [packedRegs_concat]
    exact (ih (by omega)).packIndex hmax (packedRegs_st n ws) (by omega) x

/-- R101: bit `t` of index `j`, the most significant first, is at position `11 * j + t`. -/
theorem bufBit_packedRegs (hmax : n ≤ Config.maxWordsLimit) (hfit : ws.length ≤ n) {j t : Nat} (hj : j < ws.length)
    (ht : t ≤ 10) : bufBit (packedRegs n ws).buf (11 * j + t) = (ws.getD j 0).getLsbD (10 - t) := by
  induction ws using List.reverseRecOn with
  | nil => simp at hj
  | append_singleton ws x ih =>
    rw [List.length_append, List.length_singleton] at hfit hj
    have hbits : totalBits (packedRegs n ws) = 11 * ws.length := by
      rw [totalBits, packedRegs_wcount n (by omega)]
    have hroom : totalBits (packedRegs n ws) + 11 ≤ (packedRegs n ws).buf.length := by
      rw [(packedRegs_sound hmax (by omega)).bufLength]
      omega
    rw [packedRegs_concat, bufBit_packIndex x _ _ hroom, hbits]
    by_cases hlast : j = ws.length
    · have hpos : 11 * j + t - 11 * ws.length = t := by omega
      rw [if_pos (by omega), hpos, hlast]
      simp
    · rw [if_neg (by omega), ih (by omega) (by omega), List.getD_append _ _ _ _ (by omega)]

/-- R51, R101: the collected bits as one number are the concatenation of the indices. -/
theorem packedRegs_value (hmax : n ≤ Config.maxWordsLimit) (hfit : ws.length ≤ n) :
    msbFirst (11 * ws.length) (bufBit (packedRegs n ws).buf) =
      ((List.range ws.length).map fun j => (ws.getD j 0).toNat * 2 ^ (11 * (ws.length - 1 - j))).sum := by
  have hindex : ∀ j ∈ List.range ws.length,
      (msbFirst 11 fun t => bufBit (packedRegs n ws).buf (11 * j + t)) = (ws.getD j 0).toNat := by
    intro j hj
    rw [← msbFirst_getLsbD (ws.getD j 0)]
    exact msbFirst_congr fun t ht => bufBit_packedRegs hmax hfit (List.mem_range.mp hj) (by omega)
  rw [msbFirst_mul, List.map_congr_left fun j hj => by rw [hindex j hj]]

end PackedRegs

/-- R100: PUSH in COLLECT, where the buffer has room. -/
theorem exec_push_of_room {s : State} (hst : s.regs.st = .collect) (hroom : s.regs.wcount.toNat ≠ s.maxWords)
    (idx : Opnd) : exec (.push idx) s = .next ((s.withRegs (packIndex idx s.regs)).respond true 0) := by
  rcases execPush_cases idx s with ⟨hother, -⟩ | ⟨-, hfull, -⟩ | ⟨-, -, he⟩
  · exact absurd hst hother
  · exact absurd hfull hroom
  · exact he

/-- The state after the pushes of the indices `ws` have been sent to a fresh session. -/
def State.pushed (s : State) (ws : List Opnd) : State :=
  { s with regs := packedRegs s.maxWords ws, rsp := if ws = [] then s.rsp else some ⟨true, 0⟩, agenda := [] }

/-- R41: after the pushes the block is ready for the next command. -/
theorem State.canSend.pushed {s : State} (hs : s.canSend) (ws : List Opnd) : (s.pushed ws).canSend := hs

/-- R101: sending the pushes of a list that fits packs it. -/
theorem sendCommands_push {s : State} (hs : s.canSend) (hregs : s.regs = Regs.reset s.maxWords)
    (hmax : s.maxWords ≤ Config.maxWordsLimit) {ws : List Opnd} (hfit : ws.length ≤ s.maxWords) :
    sendCommands (ws.map .push) s = .next (s.pushed ws) := by
  induction ws using List.reverseRecOn with
  | nil =>
    have hnone : s.pushed [] = s.plan [] := by simp [State.pushed, State.plan, packedRegs, ← hregs]
    rw [hnone, List.map_nil, sendCommands_nil]
  | append_singleton ws x ih =>
    rw [List.length_append, List.length_singleton] at hfit
    have hroom : (packedRegs s.maxWords ws).wcount.toNat ≠ s.maxWords := by
      rw [packedRegs_wcount _ (by omega)]
      omega
    have hpush : exec (.push x) (s.pushed ws) = .next (s.pushed (ws ++ [x])) := by
      rw [exec_push_of_room (packedRegs_st ..) hroom]
      simp [State.pushed, State.respond, State.withRegs, packedRegs_concat]
    rw [List.map_append, sendCommands_append hs (ih (by omega))]
    exact sendCommands_singleton (hs.pushed ws) hpush

/-- The registers after a valid split of the packed indices `ws` (R110). -/
def splitRegs (n : Nat) (ws : List Opnd) : Regs := (writeCounts (packedRegs n ws)).goto .split

/-- R111: the key count of a multiple of 3 words is a multiple of 32. -/
theorem splitKey_mod_of_wcount {r : Regs} (hthree : r.wcount.toNat % 3 = 0) : splitKey r % 32 = 0 := by
  simp only [splitKey, splitChecksum, totalBits]
  omega

section SplitRegs
variable {n : Nat} {ws : List Opnd}

/-- R111: a list of a multiple of 3 indices has a valid split. -/
theorem splitKey_packedRegs (hmax : ws.length ≤ Config.maxWordsLimit) (hthree : ws.length % 3 = 0) :
    splitKey (packedRegs n ws) % 32 = 0 :=
  splitKey_mod_of_wcount (by rwa [packedRegs_wcount n hmax])

/-- R23, R33: the registers of a valid split are sound. -/
theorem splitRegs_sound (hmax : n ≤ Config.maxWordsLimit) (hfit : ws.length ≤ n) (hthree : ws.length % 3 = 0) :
    (splitRegs n ws).Sound n :=
  (packedRegs_sound hmax hfit).writeCounts_goto_split (packedRegs_st n ws)
    (splitKey_packedRegs (hfit.trans hmax) hthree)

/-- R110: KEYBITS and CSBITS add up to the bits collected. -/
theorem splitRegs_counts (hmax : n ≤ Config.maxWordsLimit) (hfit : ws.length ≤ n) (hthree : ws.length % 3 = 0) :
    (splitRegs n ws).keybits.toNat + (splitRegs n ws).csbits.toNat = 11 * ws.length := by
  obtain ⟨hcounts, -⟩ := (splitRegs_sound hmax hfit hthree).splitDone (.inl rfl)
  rw [hcounts, ← packedRegs_wcount n (hfit.trans hmax)]
  rfl

/-- R51, R120: the entropy is a whole number of bytes. -/
theorem splitRegs_entropyLen (hmax : n ≤ Config.maxWordsLimit) (hfit : ws.length ≤ n) (hthree : ws.length % 3 = 0) :
    8 * entropyLen (splitRegs n ws) = (splitRegs n ws).keybits.toNat := by
  obtain ⟨-, -, hkey, -⟩ := (splitRegs_sound hmax hfit hthree).splitDone (.inl rfl)
  simp only [entropyLen]
  omega

end SplitRegs

/-- R110: SPLIT in COLLECT of a multiple of 3 words. -/
theorem exec_split_of_valid {s : State} (hst : s.regs.st = .collect) (hkey : splitKey s.regs % 32 = 0) :
    exec .split s = .next ((s.withRegs ((writeCounts s.regs).goto .split)).respond true 0) := by
  rcases execSplit_cases s with ⟨hother, -⟩ | ⟨-, hbad, -⟩ | ⟨-, -, he⟩
  · exact absurd hst hother
  · exact absurd hkey hbad
  · exact he

/-- R101, R110: sending the pushes of a list that fits, of a multiple of 3 indices, and SPLIT. -/
theorem sendCommands_push_split {s : State} (hs : s.canSend) (hregs : s.regs = Regs.reset s.maxWords)
    (hmax : s.maxWords ≤ Config.maxWordsLimit) {ws : List Opnd} (hfit : ws.length ≤ s.maxWords)
    (hthree : ws.length % 3 = 0) :
    sendCommands (ws.map .push ++ [.split]) s = .next
      { s with regs := splitRegs s.maxWords ws, rsp := some ⟨true, 0⟩, agenda := [] } := by
  rw [sendCommands_append hs (sendCommands_push hs hregs hmax hfit)]
  exact sendCommands_singleton (hs.pushed ws)
    (exec_split_of_valid (packedRegs_st ..) (splitKey_packedRegs (hfit.trans hmax) hthree))

end Sys2Proof.Machine
end

section
/-! SUPPORT. What a session keeps and gives out: the ended session (R60, R145), repeated reads (R57), and the entropy and
the checksum as integers (R51). -/

namespace Sys2Proof.Machine

open Sys2Proof

/-- R187: in DONE no command but CLEAR writes a register. -/
theorem CommandEffect.regs_eq_of_done {i : Instr} {s t : State} (h : CommandEffect s i t) (hst : s.regs.st = .done)
    (hclear : i ≠ .clear) : t.regs = s.regs := by
  cases h with
  | answered => rfl
  | cleared => exact absurd rfl hclear
  | overflowed _ hother | packed _ hother | badLength hother | splitDone hother | requested hother =>
    simp [hst] at hother

/-- Settles O31: no register changes, in each of the model's cases of a register change. -/
theorem verdictStaysUntilClearOrReset : Obligations.VerdictStaysUntilClearOrReset := by
  intro s t hst h hclear hres
  have hregs : t.regs = s.regs := by
    rcases step_regs_cases h with hsame | hreset | ⟨-, hvwait, -⟩ | ⟨i, hp, he⟩
    · exact hsame
    · exact absurd hreset hres
    · simp [hst] at hvwait
    · exact (exec_effect he).regs_eq_of_done hst fun hi => hclear (hi ▸ hp)
  rw [hregs]
  exact ⟨hst, rfl, rfl, rfl⟩

/-- Settles O43: the buffer's bits as one number, once in groups of 11 as pushed, once cut after `KEYBITS`. -/
theorem entropyAndChecksumAsIntegers : Obligations.EntropyAndChecksumAsIntegers := by
  intro s ws V hinv hs hfresh hthree hfit hV
  have hmax := hinv.build.2
  have hcounts := splitRegs_counts hmax hfit hthree
  refine ⟨_, sendCommands_push_split hs (hinv.regs_of_freshSession hfresh) hmax hfit hthree, rfl, ?_⟩
  rw [hV, ← packedRegs_value hmax hfit, ← hcounts, entropy_value _ (splitRegs_entropyLen hmax hfit hthree)]
  exact ⟨(msbFirst_add_div ..).symm, (msbFirst_add_mod ..).symm⟩

/-- Settles O21: such a command only answers, and a command does not read the response before it. -/
theorem readsAreRepeatable : Obligations.ReadsAreRepeatable := by
  intro i s hread
  obtain ⟨t, ht, heffect⟩ := exec_total i s
  cases heffect with
  | answered _ ok d => exact ⟨⟨ok, d⟩, ht, exec_withHostSide ht _ s.agenda⟩
  | cleared | overflowed | packed | badLength | splitDone | requested => simp at hread

end Sys2Proof.Machine
end

section
/-! SUPPORT. Words and commands (R70 to R74): decoding and encoding undo each other, and a row of the opcode map spells
exactly the words of its own commands. -/

namespace Sys2Proof.Machine

open Sys2Proof

/-- Settles O1: R70 to R73, by the lemma that the host's sending rests on. -/
theorem decodeOfEncodeGivesCommand : Obligations.DecodeOfEncodeGivesCommand :=
  decode_encode

/-- R71: an operand field with its upper bits 0 is its selector, zero-extended. -/
theorem selField_setWidth_of_mbz {o : Opnd} (h : mbzField o = 0) : (selField o).setWidth 11 = o := by
  apply BitVec.eq_of_getLsbD_eq
  intro b hb
  by_cases hlow : b < 2
  · simp [selField, hb, hlow]
  · have hmbz : (mbzField o).getLsbD (b - 2) = false := by simp [h]
    have hback : 2 + (b - 2) = b := by omega
    have hin : b - 2 < 9 := by omega
    rw [mbzField, BitVec.getLsbD_extractLsb', hback] at hmbz
    simpa [selField, hb, hlow, hin] using hmbz.symm

/-- R71, R73: a word that decodes to a command has the command's opcode and its operand, every bit of it. -/
theorem fields_of_decode {w : Word} {i : Instr} (h : decode w = .command i) :
    opField w = i.mnemonic.opcode ∧ opndField w = i.operandField := by
  unfold decode at h
  split at h
  case h_1 hop | h_2 hop | h_4 hop | h_5 hop | h_6 hop =>
    obtain ⟨hopnd, rfl⟩ := formZ_eq_command.mp h
    exact ⟨BitVec.eq_of_toNat_eq hop, hopnd⟩
  case h_3 hop | h_8 hop | h_9 hop =>
    cases h
    exact ⟨BitVec.eq_of_toNat_eq hop, rfl⟩
  case h_7 hop =>
    obtain ⟨hmbz, rfl⟩ := formSel_eq_command.mp h
    refine ⟨BitVec.eq_of_toNat_eq hop, ?_⟩
    rw [Instr.operandField, InfoSel.toBits_ofBits, selField_setWidth_of_mbz hmbz]
  case h_10 => cases h

/-- R70 to R73: the words that decode to a command are its encoding and no other. -/
theorem decode_eq_command_iff {w : Word} {i : Instr} : decode w = .command i ↔ encode i = w := by
  constructor
  · intro h
    obtain ⟨hop, hopnd⟩ := fields_of_decode h
    rw [encode, ← hop, ← hopnd, fields_append]
  · rintro rfl
    exact decode_encode i

/-- Settles O2: a word is its two fields, and decoding reads all of both. -/
theorem encodeOfDecodedWordGivesWord : Obligations.EncodeOfDecodedWordGivesWord :=
  fun _ _ => decode_eq_command_iff.mp

/-- R72: each command's word lies in a row with the command's mnemonic, and is the match word or'ed with the operand. -/
theorem encode_inRow (i : Instr) : Laws.InRow.Statement i := by
  cases i with
  | nop => exact Laws.InRow.nop
  | clear => exact Laws.InRow.clear
  | push idx => exact Laws.InRow.push idx
  | split => exact Laws.InRow.split
  | verify => exact Laws.InRow.verify
  | rdstat => exact Laws.InRow.rdstat
  | rdinfo sel => exact Laws.InRow.rdinfo sel
  | rdbyte k => exact Laws.InRow.rdbyte k
  | rdcs j => exact Laws.InRow.rdcs j

/-- R72: the opcode map has one row per mnemonic. -/
theorem opcodeMap_row_unique : ∀ r ∈ opcodeMap, ∀ r' ∈ opcodeMap, r.mnemonic = r'.mnemonic → r = r' := by
  decide

/-- R70, R72: a word whose five opcode bits match is that opcode with the word's own operand field. -/
theorem eq_append_of_and_opMask {w k : Word} (m : Mnemonic) (hm : k = m.matchWord) (h : w &&& 0xF800 = k) :
    m.opcode ++ opndField w = w := by
  have hop : opField w = m.opcode := by
    rw [hm, Mnemonic.matchWord, ← fields_append w, Laws.InRow.append_and_opMask] at h
    rw [← opField_append (opField w) 0, h, opField_append]
  rw [← hop, fields_append]

/-- R72: a word that RDINFO's mask matches is one of the four words of RDINFO. -/
theorem eq_rdinfo_of_and_selMask {w : Word} (h : w &&& 0xFFFC = 0x3000) :
    encode (.rdinfo (InfoSel.ofBits (w.setWidth 2))) = w := by
  have hsel : ∀ b : BitVec 2, encode (.rdinfo (InfoSel.ofBits b)) = 0x3000 ||| b.setWidth 16 := by decide
  have hlow : (w.setWidth 2).setWidth 16 = w &&& 0x0003 := by
    apply BitVec.eq_of_toNat_eq
    have hmod : w.toNat &&& 3 = w.toNat % 4 := Nat.and_two_pow_sub_one_eq_mod w.toNat 2
    simp only [BitVec.toNat_setWidth, BitVec.toNat_and, BitVec.reduceToNat]
    omega
  rw [hsel, ← h, hlow, ← BitVec.and_or_distrib_left]
  exact BitVec.and_allOnes

/-- R72: a row of the opcode map spells exactly the words of the commands with its mnemonic. -/
theorem spells_iff {r : OpcodeRow} (hr : r ∈ opcodeMap) (w : Word) :
    r.spells w = true ↔ ∃ i : Instr, i.mnemonic = r.mnemonic ∧ decode w = .command i := by
  constructor
  · simp only [OpcodeRow.spells, beq_iff_eq, decode_eq_command_iff]
    have hfull : w &&& 0xFFFF = w := BitVec.and_allOnes
    simp only [opcodeMap, List.mem_cons, List.not_mem_nil, or_false] at hr
    rcases hr with rfl | rfl | rfl | rfl | rfl | rfl | rfl | rfl | rfl <;> intro h
    · exact ⟨.nop, rfl, h.symm.trans hfull⟩
    · exact ⟨.clear, rfl, h.symm.trans hfull⟩
    · exact ⟨.push _, rfl, eq_append_of_and_opMask .push (by decide) h⟩
    · exact ⟨.split, rfl, h.symm.trans hfull⟩
    · exact ⟨.verify, rfl, h.symm.trans hfull⟩
    · exact ⟨.rdstat, rfl, h.symm.trans hfull⟩
    · exact ⟨.rdinfo _, rfl, eq_rdinfo_of_and_selMask h⟩
    · exact ⟨.rdbyte _, rfl, eq_append_of_and_opMask .rdbyte (by decide) h⟩
    · exact ⟨.rdcs _, rfl, eq_append_of_and_opMask .rdcs (by decide) h⟩
  · rintro ⟨i, hi, hd⟩
    obtain ⟨-, r', hr', hm, hspells⟩ := encode_inRow i
    rw [opcodeMap_row_unique r hr r' hr' (hi.symm.trans hm.symm), ← decode_eq_command_iff.mp hd]
    exact hspells

/-- R73, R74: a word is ILLEGAL exactly when no row spells it. -/
theorem illegal_iff_no_row (w : Word) : (∃ e, decode w = .illegal e) ↔ ∀ r ∈ opcodeMap, r.spells w = false := by
  constructor
  · rintro ⟨e, he⟩ r hr
    refine Bool.eq_false_iff.mpr fun hspells => ?_
    obtain ⟨i, -, hi⟩ := (spells_iff hr w).mp hspells
    simp [he] at hi
  · intro hnone
    cases hd : decode w with
    | illegal e => exact ⟨e, rfl⟩
    | command i =>
      obtain ⟨-, r, hr, -, hspells⟩ := encode_inRow i
      simp [decode_eq_command_iff.mp hd, hnone r hr] at hspells

/-- R72: two rows that spell one word are the same row, since the word decodes to one command. -/
theorem spelling_row_unique {w : Word} {r r' : OpcodeRow} (hr : r ∈ opcodeMap) (hr' : r' ∈ opcodeMap)
    (h : r.spells w = true) (h' : r'.spells w = true) : r = r' := by
  obtain ⟨i, hm, hi⟩ := (spells_iff hr w).mp h
  obtain ⟨i', hm', hi'⟩ := (spells_iff hr' w).mp h'
  cases hi.symm.trans hi'
  exact opcodeMap_row_unique r hr r' hr' (hm.symm.trans hm')

/-- R72: the opcodes in use end at 0x08, so every command's word is below 0x4800. -/
theorem encode_toNat_lt (i : Instr) : (encode i).toNat < 0x4800 := by
  have hop : i.mnemonic.opcode.toNat ≤ 8 := by cases i.mnemonic <;> decide
  have hopnd := i.operandField.isLt
  rw [encode, BitVec.toNat_append, ← Nat.shiftLeft_add_eq_or_of_lt hopnd, Nat.shiftLeft_eq]
  omega

/-- R72, R74: the words of opcodes 0x09 to 0x1F are ILLEGAL. -/
theorem illegal_of_reserved {w : Word} (h : 0x48 ≤ w.toNat / 256) : ∃ e, decode w = .illegal e := by
  cases hd : decode w with
  | illegal e => exact ⟨e, rfl⟩
  | command i =>
    have hlt := encode_toNat_lt i
    rw [decode_eq_command_iff.mp hd] at hlt
    omega

/-- R72: of form Z the row spells one word. -/
theorem decode_iff_row {i : Instr} {m k : Word} (hr : ⟨i.mnemonic, m, k⟩ ∈ opcodeMap)
    (hone : ∀ j : Instr, j.mnemonic = i.mnemonic → j = i) (w : Word) : decode w = .command i ↔ w &&& k = m := by
  rw [← beq_iff_eq (a := w &&& k)]
  refine Iff.trans ⟨fun h => ⟨i, rfl, h⟩, ?_⟩ (spells_iff hr w).symm
  rintro ⟨j, hj, hd⟩
  rwa [hone j hj] at hd

/-- R72: of the forms with an operand the row spells one word per operand. -/
theorem exists_decode_iff_row {α : Type} {f : α → Instr} {n : Mnemonic} {m k : Word} (hr : ⟨n, m, k⟩ ∈ opcodeMap)
    (hall : ∀ j : Instr, j.mnemonic = n ↔ ∃ x, f x = j) (w : Word) :
    (∃ x, decode w = .command (f x)) ↔ w &&& k = m := by
  rw [← beq_iff_eq (a := w &&& k)]
  refine Iff.trans ?_ (spells_iff hr w).symm
  simp [hall]

/-- Settles O3: row by row of the opcode map, from which commands have the row's mnemonic. -/
theorem wordsSpellTheRowsOfTheOpcodeMap : Obligations.WordsSpellTheRowsOfTheOpcodeMap := by
  intro w
  refine ⟨decode_iff_row (by decide) ?_ w, decode_iff_row (by decide) ?_ w,
    exists_decode_iff_row (n := .push) (by decide) ?_ w, decode_iff_row (by decide) ?_ w,
    decode_iff_row (by decide) ?_ w, decode_iff_row (by decide) ?_ w,
    exists_decode_iff_row (n := .rdinfo) (by decide) ?_ w, exists_decode_iff_row (n := .rdbyte) (by decide) ?_ w,
    exists_decode_iff_row (n := .rdcs) (by decide) ?_ w, illegal_iff_no_row w,
    fun _ hr _ hr' => spelling_row_unique hr hr', illegal_of_reserved⟩
  all_goals
    intro j
    cases j <;> simp [Instr.mnemonic]

/-- Settles O4: the model's decoder run on the twelve words. -/
theorem sampleWordsDecode : Obligations.SampleWordsDecode := by
  unfold Obligations.SampleWordsDecode
  decide

end Sys2Proof.Machine
end

section
/-! SUPPORT. What the assembler writes and what it refuses (R80), and what the pseudo-instructions stand for (R81). -/

namespace Sys2Proof.Machine

open Sys2Proof

/-- R80: a written command that fails the check is refused. -/
theorem elaborate_of_check {c : SourceCommand} {e : SourceError} (h : c.check = some e) : c.elaborate = none := by
  simp [SourceCommand.elaborate, SourceCommand.wf, h]

/-- R80: a written command that stands for none has no word. -/
theorem assemble_of_elaborate_none {c : SourceCommand} (h : c.elaborate = none) : assemble c = none := by
  simp [assemble, h]

section Operand
variable {m : Mnemonic}

/-- R80: an operand out of its field's range is refused. -/
theorem elaborate_of_bound_le {b n : Nat} (hb : m.form.bound = some b) (hn : b ≤ n) :
    (SourceCommand.mk m (some n)).elaborate = none :=
  elaborate_of_check (e := .operandOutOfRange) (by simp [SourceCommand.check, hb, hn])

/-- R80: a missing operand is refused. -/
theorem elaborate_of_operand_missing {b : Nat} (hb : m.form.bound = some b) :
    (SourceCommand.mk m none).elaborate = none :=
  elaborate_of_check (e := .operandMissing) (by simp [SourceCommand.check, hb])

/-- R71, R80: an operand of form Z is refused. -/
theorem elaborate_of_operand_not_allowed (hb : m.form.bound = none) (n : Nat) :
    (SourceCommand.mk m (some n)).elaborate = none :=
  elaborate_of_check (e := .operandNotAllowed) (by simp [SourceCommand.check, hb])

/-- R80: a number in its field's range stands for the command with that operand. -/
theorem elaborate_of_lt_bound {b n : Nat} (hb : m.form.bound = some b) (hn : n < b) :
    ∃ i : Instr, (SourceCommand.mk m (some n)).elaborate = some i ∧ i.mnemonic = m ∧ i.operandField.toNat = n := by
  have hwf : (SourceCommand.mk m (some n)).wf = true := by simp [SourceCommand.wf, SourceCommand.check, hb, hn]
  cases m with
  | nop | clear | split | verify | rdstat => cases hb
  | push | rdbyte | rdcs =>
    cases hb
    exact ⟨_, if_pos hwf, rfl, Nat.mod_eq_of_lt hn⟩
  | rdinfo =>
    cases hb
    refine ⟨_, if_pos hwf, rfl, ?_⟩
    rw [Instr.operandField, InfoSel.toBits_ofBits, BitVec.toNat_setWidth, BitVec.toNat_ofNat]
    omega

/-- R80: the word of `MNEMONIC n` is `match | n`. -/
theorem assemble_of_lt_bound {b n : Nat} (hb : m.form.bound = some b) (hn : n < b) :
    assemble ⟨m, some n⟩ = some (m.matchWord ||| BitVec.ofNat 16 n) := by
  obtain ⟨i, hi, hm, hopnd⟩ := elaborate_of_lt_bound hb hn
  obtain ⟨hword, -⟩ := encode_inRow i
  have hzext : i.operandField.setWidth 16 = BitVec.ofNat 16 n := by
    rw [← hopnd, BitVec.ofNat_toNat]
  rw [assemble, hi, Option.map_some, hword, hm, hzext]

/-- R80: a missing operand has no word. -/
theorem assemble_of_operand_missing {b : Nat} (hb : m.form.bound = some b) : assemble ⟨m, none⟩ = none :=
  assemble_of_elaborate_none (elaborate_of_operand_missing hb)

/-- R80: an operand out of range has no word. -/
theorem assemble_of_bound_le {b n : Nat} (hb : m.form.bound = some b) (hn : b ≤ n) : assemble ⟨m, some n⟩ = none :=
  assemble_of_elaborate_none (elaborate_of_bound_le hb hn)

end Operand

/-- Settles O5: mnemonic by mnemonic, from the form's operand range. -/
theorem assemblerEncodesAndNeverTruncates : Obligations.AssemblerEncodesAndNeverTruncates := by
  refine ⟨by decide, fun n hn => ?_, fun n hn => assemble_of_lt_bound rfl hn, fun n hn => ?_,
    fun n hn => assemble_of_bound_le rfl hn, ?_, ?_⟩
  · exact ⟨assemble_of_lt_bound rfl hn, assemble_of_lt_bound rfl hn, assemble_of_lt_bound rfl hn⟩
  · exact ⟨assemble_of_bound_le rfl hn, assemble_of_bound_le rfl hn, assemble_of_bound_le rfl hn⟩
  · rintro m (rfl | rfl | rfl | rfl) <;> exact assemble_of_operand_missing rfl
  · rintro m n (rfl | rfl | rfl | rfl | rfl) <;>
      exact assemble_of_elaborate_none (elaborate_of_operand_not_allowed rfl n)

/-- Written commands that each stand for one stand for those, in order. -/
theorem elaborateAll_map {α : Type} {f : α → SourceCommand} {g : α → Instr} {xs : List α}
    (h : ∀ x ∈ xs, (f x).elaborate = some (g x)) : elaborateAll (xs.map f) = some (xs.map g) := by
  induction xs with
  | nil => rfl
  | cons x xs ih =>
    have hx := h x List.mem_cons_self
    have hxs := ih fun y hy => h y (List.mem_cons_of_mem x hy)
    simp [elaborateAll, hx, hxs]

/-- One refused command refuses the whole. -/
theorem elaborateAll_of_mem {cs : List SourceCommand} {c : SourceCommand} (hc : c ∈ cs) (h : c.elaborate = none) :
    elaborateAll cs = none := by
  induction cs with
  | nil => cases hc
  | cons d ds ih =>
    rcases List.mem_cons.mp hc with rfl | hmem
    · simp [elaborateAll, h]
    · simp [elaborateAll, ih hmem]

/-- R81: what DECODE of indices that fit stands for. -/
theorem elaborate_decode (ws : List Opnd) :
    (Pseudo.decode (ws.map BitVec.toNat)).elaborate = some (.clear :: (ws.map .push ++ [.split, .verify])) := by
  have hclear : (SourceCommand.mk .clear none).elaborate = some .clear := rfl
  have hsplit : (SourceCommand.mk .split none).elaborate = some .split := rfl
  have hverify : (SourceCommand.mk .verify none).elaborate = some .verify := rfl
  simp [Pseudo.elaborate, Pseudo.expand, elaborateAll, hclear, elaborateAll_append, elaborateAll_pushSources, hsplit,
    hverify]

/-- R81: what RDENT of at most 2048 bytes stands for. -/
theorem elaborate_rdent {n : Nat} (hn : n ≤ 2048) :
    (Pseudo.rdent n).elaborate = some ((List.range n).map fun k => .rdbyte (BitVec.ofNat 11 k)) := by
  refine elaborateAll_map fun k hk => if_pos ?_
  have hlt : k < 2048 := (List.mem_range.mp hk).trans_le hn
  simp [SourceCommand.wf, SourceCommand.check, Mnemonic.form, OperandForm.bound, hlt]

/-- Settles O6: each written command of an expansion is elaborated on its own, and one refused refuses the whole. -/
theorem pseudoInstructionsExpandOrAreRefused : Obligations.PseudoInstructionsExpandOrAreRefused := by
  refine ⟨elaborateAll_pushSources, elaborate_decode, fun L hL => ?_, fun L hL => ?_, fun is n hmem hn => ?_⟩
  · refine ⟨_, elaborate_rdent hL, by simp, fun k hk => ⟨BitVec.ofNat 11 k, by simp [hk], ?_⟩⟩
    exact Nat.mod_eq_of_lt (hk.trans_le hL)
  · have hlast : (⟨.rdbyte, some 2048⟩ : SourceCommand) ∈ (Pseudo.rdent L).expand :=
      List.mem_map_of_mem (List.mem_range.mpr hL)
    exact elaborateAll_of_mem hlast (elaborate_of_bound_le rfl le_rfl)
  · have hpush : (⟨.push, some n⟩ : SourceCommand) ∈ pushSources is := List.mem_map_of_mem hmem
    have hnone : (SourceCommand.mk .push (some n)).elaborate = none := elaborate_of_bound_le rfl hn
    exact ⟨elaborateAll_of_mem hpush hnone, elaborateAll_of_mem (by simp [Pseudo.expand, hpush]) hnone⟩

end Sys2Proof.Machine
end

section
/-! SUPPORT. Polling for the verdict (R81, R142, R215) and whole decodes (R214, R221): what one poll shows, what the
stub's moves before it do, and DECODE command by command. -/

namespace Sys2Proof.Machine

open Sys2Proof

section StubMoves
variable {s : State}

/-- R141: the stub accepts a request placed while it holds none. -/
theorem step_stubAccept {q : Request} (hm : s.moves .stubAccept) (hrst : s.rst = false) (hreq : s.vreq = some q)
    (hstub : s.stub = none) : step s = .next { s.begin with vreq := none, stub := some q } := by
  rw [step_of_moves hm]
  simp only [moveAction, Action.outcome, stubAccepts, State.begin_rst, State.begin_vreq, State.begin_stub, hrst, hreq,
    hstub]

/-- R144, R146: the stub answers the request it holds. -/
theorem step_stubAnswer {q : Request} (hm : s.moves .stubAnswer) (hrst : s.rst = false) (hstub : s.stub = some q)
    (hrsp : s.vrsp = none) :
    step s = .next { s.begin with stub := none, vrsp := some (verdictOf q.msg q.cs) } := by
  rw [step_of_moves hm]
  simp only [moveAction, Action.outcome, stubAnswers, State.begin_rst, State.begin_vrsp, State.begin_stub, hrst, hstub,
    hrsp]

/-- The session has its answer `m`: it is DONE, and nothing is outstanding (R142). -/
def State.answered (s : State) (m : Bool) : State :=
  { s with regs := { s.regs with verdict := Verdict.ofAnswer m, st := .done }, vreq := none, stub := none, vrsp := none }

/-- R142: the answer taken in VWAIT is the verdict. -/
theorem step_takeAnswer {m : Bool} (hm : s.moves .takeAnswer) (hrst : s.rst = false) (hst : s.regs.st = .vwait)
    (hreq : s.vreq = none) (hstub : s.stub = none) (hrsp : s.vrsp = some m) :
    step s = .next (s.begin.answered m) := by
  rw [step_of_moves hm]
  simp [moveAction, Action.outcome, takesResponse, onStubResponse, State.answered, State.withRegs, hrst, hst, hreq,
    hstub, hrsp]

/-- R141 to R146: the stub accepts the placed request, answers it, and its answer is taken. -/
theorem steps_answer {q : Request} (hrst : s.rst = false) (hst : s.regs.st = .vwait) (hreq : s.vreq = some q)
    (hstub : s.stub = none) (hrsp : s.vrsp = none) (n : Nat) (ms : List Move) :
    steps (n + 3) (s.plan (.stubAccept :: .stubAnswer :: .takeAnswer :: ms)) =
      steps n (({ s with rsp := none }.answered (verdictOf q.msg q.cs)).plan ms) := by
  have haccept := step_stubAccept (s := s.plan (.stubAccept :: .stubAnswer :: .takeAnswer :: ms)) rfl hrst hreq hstub
  have hanswer := step_stubAnswer (q := q) rfl hrst rfl hrsp
    (s := { s with vreq := none, stub := some q, rsp := none, agenda := .stubAnswer :: .takeAnswer :: ms })
  have htake := step_takeAnswer (m := verdictOf q.msg q.cs) rfl hrst hst rfl rfl rfl
    (s := { s with vreq := none, stub := none, vrsp := some (verdictOf q.msg q.cs), rsp := none,
                   agenda := .takeAnswer :: ms })
  exact (steps_succ_of_step _ haccept).trans
    ((steps_succ_of_step _ hanswer).trans (steps_succ_of_step _ htake))

end StubMoves

/-- The state after RDSTAT has been sent: its response, the STATUS word (R164). -/
def State.polled (s : State) : State := (s.respond true (statusWord s.regs)).plan []

/-- R81: a poll before which nothing moves. -/
theorem pollStatus_nil {s : State} (hs : s.canSend) : pollStatus [] s = .next s.polled :=
  sendCommands_singleton hs (i := .rdstat) rfl

/-- R81, R215: a poll before which the stub accepts and answers and the answer is taken shows the answered session. -/
theorem pollStatus_answer {s : State} {q : Request} (hs : s.canSend) (hst : s.regs.st = .vwait)
    (hreq : s.vreq = some q) (hstub : s.stub = none) (hrsp : s.vrsp = none) :
    pollStatus [.stubAccept, .stubAnswer, .takeAnswer] s = .next (s.answered (verdictOf q.msg q.cs)).polled :=
  (steps_answer hs.1 hst hreq hstub hrsp 2 _).trans (steps_send (i := .rdstat) (s := State.answered _ _) hs rfl 0 [])

/-- R31: bits 2:0 of the status word are `ST`. -/
theorem statusWord_stateField (r : Regs) (ok : Bool) : (Response.mk ok (statusWord r)).stateField = r.st.code := by
  rw [Response.stateField, statusWord]
  exact BitVec.extractLsb'_append_eq_right

/-- R25, R81: a poll shows VWAIT exactly when the session is in it. -/
theorem showsVwait_polled (s : State) : showsVwait s.polled = decide (s.regs.st = .vwait) := by
  have hcode : ∀ st : Session, (st.code == 2) = decide (st = .vwait) := by intro st; cases st <;> rfl
  exact (congrArg (· == 2) (statusWord_stateField s.regs true)).trans (hcode s.regs.st)

/-- R81, R219: polling ends with the answered session, however many polls showed VWAIT before. -/
theorem waitVerdict_answer {s : State} {q : Request} (hs : s.canSend) (hst : s.regs.st = .vwait)
    (hreq : s.vreq = some q) (hstub : s.stub = none) (hrsp : s.vrsp = none) (polls : Nat) :
    waitVerdict (List.replicate polls [] ++ [[.stubAccept, .stubAnswer, .takeAnswer]]) s =
      .next (s.answered (verdictOf q.msg q.cs)).polled := by
  induction polls generalizing s with
  | zero =>
    have hdone : showsVwait (s.answered (verdictOf q.msg q.cs)).polled = false := showsVwait_polled _
    simp [waitVerdict, pollStatus_answer hs hst hreq hstub hrsp, hdone]
  | succ n ih =>
    have hwait : showsVwait s.polled = true := by simp [showsVwait_polled, hst]
    have hrest := ih (s := s.polled) hs hst hreq hstub hrsp
    simp only [List.replicate_succ, List.cons_append, waitVerdict, pollStatus_nil hs, hwait, if_true, hrest]
    rfl

/-- R141: a request still placed is the only thing outstanding. -/
theorem State.ChannelsSound.only_placed {s : State} (h : s.ChannelsSound) {q : Request} (hst : s.regs.st = .vwait)
    (hreq : s.vreq = some q) : s.stub = none ∧ s.vrsp = none := by
  have hone : 1 + s.stub.toList.length + s.vrsp.toList.length = 1 := by simpa [State.inFlight, hst, hreq] using h.one
  have hempty : s.stub.toList.length = 0 ∧ s.vrsp.toList.length = 0 := by omega
  simpa using hempty

/-- Settles O46: the polls before the stub's moves show VWAIT, the one after them shows the verdict. -/
theorem pollingEndsWithTheVerdict : Obligations.PollingEndsWithTheVerdict := by
  intro s q polls hinv hs hst hreq
  obtain ⟨hstub, hrsp⟩ := hinv.channels.only_placed hst hreq
  obtain ⟨-, -, -, -, herr⟩ := hinv.regs.splitDone (.inr (.inl hst))
  refine ⟨_, waitVerdict_answer hs hst hreq hstub hrsp polls, rfl, ?_⟩
  simp only [State.polled, State.plan_rsp, State.respond_rsp, State.answered, statusWord, herr]
  cases verdictOf q.msg q.cs <;> rfl

/-- R41: CLEAR leaves the block ready for the next command. -/
theorem State.canSend.cleared {s : State} (hs : s.canSend) : (s.clearSession.respond true 0).canSend := hs

/-- R81, R162, R214: DECODE is sent from any session but one that waits; its CLEAR leaves an empty one. -/
theorem sendPseudo_decode {s : State} (hs : s.canSend) (hst : s.regs.st ≠ .vwait) (ws : List Opnd) :
    sendPseudo (.decode (ws.map BitVec.toNat)) s =
      some (sendCommands (ws.map .push ++ [.split, .verify]) (s.clearSession.respond true 0)) := by
  have hclear : exec .clear s = .next (s.clearSession.respond true 0) := by
    rcases execClear_cases s with ⟨hwait, -⟩ | ⟨-, he⟩
    · exact absurd hwait hst
    · exact he
  rw [sendPseudo, elaborate_decode, Option.map_some, sendCommands_cons hs hclear]

/-- The state after DECODE of a valid length, with its request placed (R140, R214). -/
def State.decoding (s : State) (ws : List Opnd) : State :=
  { s with regs := (splitRegs s.maxWords ws).goto .vwait, vreq := some (requestOf (splitRegs s.maxWords ws)),
           rsp := some ⟨true, 0⟩, agenda := [] }

/-- R214: DECODE of a multiple of 3 indices that fit packs them, splits them and places the request. -/
theorem sendPseudo_decode_valid {s : State} (hs : s.canSend) (hst : s.regs.st ≠ .vwait)
    (hmax : s.maxWords ≤ Config.maxWordsLimit) {ws : List Opnd} (hfit : ws.length ≤ s.maxWords)
    (hthree : ws.length % 3 = 0) :
    sendPseudo (.decode (ws.map BitVec.toNat)) s = some (.next (s.decoding ws)) := by
  have hsplit := sendCommands_push_split hs.cleared rfl hmax hfit hthree
  have hready : State.canSend { s.clearSession.respond true 0 with regs := splitRegs s.maxWords ws, agenda := [] } := hs
  have hassoc : ws.map Instr.push ++ [.split, .verify] = ws.map Instr.push ++ [.split] ++ [.verify] := by simp
  rw [sendPseudo_decode hs hst, hassoc, sendCommands_append hs.cleared hsplit]
  exact congrArg some (sendCommands_singleton (i := .verify) hready rfl)

/-- R111, R221: the counts of a valid split of `3 * q` indices. -/
theorem countsOf_splitRegs {n q : Nat} {ws : List Opnd} (hmax : n ≤ Config.maxWordsLimit) (hfit : ws.length ≤ n)
    (hq : ws.length = 3 * q) : countsOf (splitRegs n ws) = ⟨3 * q, 32 * q, q⟩ := by
  obtain ⟨hsum, hcs, -⟩ := (splitRegs_sound hmax hfit (by omega)).splitDone (.inl rfl)
  have hcount : (splitRegs n ws).wcount.toNat = 3 * q := (packedRegs_wcount n (hfit.trans hmax)).trans hq
  simp only [totalBits, hcount] at hsum hcs
  simp only [countsOf, Counts.mk.injEq]
  omega

/-- Settles O47: DECODE places the request of the split, and polling records `Verify` of it. -/
theorem wholeDecodeOfAValidLength : Obligations.WholeDecodeOfAValidLength := by
  intro s ws q polls hinv hs hst hq hfit
  have hmax := hinv.build.2
  obtain ⟨-, hstub, hrsp⟩ := hinv.channels.empty hst
  have hwait := waitVerdict_answer (s := s.decoding ws) hs rfl rfl hstub hrsp polls
  refine ⟨_, _, sendPseudo_decode_valid hs hst hmax hfit (by omega), rfl, rfl, hwait,
    fun _ _ => bufBit_packedRegs hmax hfit, ?_⟩
  rw [← countsOf_splitRegs hmax hfit hq]
  rfl

/-- R110, R188: SPLIT in COLLECT of a number of words that is not a multiple of 3. -/
theorem exec_split_of_invalid {s : State} (hst : s.regs.st = .collect) (hthree : s.regs.wcount.toNat % 3 ≠ 0) :
    exec .split s = .next ((s.withRegs (writeCounts s.regs)).fatal .invalidBitLength) := by
  rcases execSplit_cases s with ⟨hother, -⟩ | ⟨-, -, he⟩ | ⟨-, hkey, -⟩
  · exact absurd hst hother
  · exact he
  · exact absurd (wcount_mod_three_of_splitKey hkey) hthree

/-- R110, R188, R221: the result of a split of an invalid length. -/
theorem sessionResult_invalidBitLength {r : Regs} (hst : r.st = .collect) :
    sessionResult ((writeCounts r).enterError .invalidBitLength) =
      some (.failed (.fatal .invalidBitLength) ⟨r.wcount.toNat, splitKey r, splitChecksum r⟩) := by
  rw [← writeCounts_keybits_toNat, ← writeCounts_csbits_toNat]
  simp [sessionResult, countsOf, hst]

/-- Settles O48: SPLIT enters ERROR with the counts written, and VERIFY is rejected there. -/
theorem wholeDecodeOfAnInvalidLength : Obligations.WholeDecodeOfAnInvalidLength := by
  rintro s ws T hinv hs hst hthree hfit rfl
  have hmax := hinv.build.2
  have hcount := packedRegs_wcount s.maxWords (hfit.trans hmax)
  have hpush := sendCommands_push hs.cleared rfl hmax hfit
  have hsplit := exec_split_of_invalid (s := (s.clearSession.respond true 0).pushed ws) (packedRegs_st ..)
    (by simpa [State.pushed, hcount] using hthree)
  rw [sendPseudo_decode hs hst, sendCommands_append hs.cleared hpush, sendCommands_cons (hs.cleared.pushed ws) hsplit]
  refine ⟨_, congrArg some (sendCommands_singleton (i := .verify) hs rfl), ?_⟩
  have hresult := sessionResult_invalidBitLength (packedRegs_st s.maxWords ws)
  simp only [hcount, splitKey, splitChecksum, totalBits] at hresult
  exact hresult

end Sys2Proof.Machine
end

section
/-! SUPPORT. The bit packer (40_packer.md): PUSH in its three cases (R100), lists of pushes that fit the buffer (R101)
and lists that do not (R188, R190). -/

namespace Sys2Proof.Machine

open Sys2Proof

/-- R100, R186: PUSH outside COLLECT is rejected. -/
theorem exec_push_of_not_collect {s : State} (hst : s.regs.st ≠ .collect) (idx : Opnd) :
    exec (.push idx) s = .next (s.reject .badState) := by
  rcases execPush_cases idx s with ⟨-, he⟩ | ⟨hcollect, -⟩ | ⟨hcollect, -⟩
  · exact he
  · exact absurd hcollect hst
  · exact absurd hcollect hst

/-- R100, R188: PUSH in COLLECT to a full buffer. -/
theorem exec_push_of_full {s : State} (hst : s.regs.st = .collect) (hfull : s.regs.wcount.toNat = s.maxWords)
    (idx : Opnd) : exec (.push idx) s = .next (s.fatal .overflow) := by
  rcases execPush_cases idx s with ⟨hother, -⟩ | ⟨-, -, he⟩ | ⟨-, hroom, -⟩
  · exact absurd hst hother
  · exact he
  · exact absurd hfull hroom

/-- R72, R80: the word of PUSH is its match word or'ed with the index. -/
theorem encode_push (idx : Opnd) : encode (.push idx) = 0x1000 ||| idx.setWidth 16 := by
  obtain ⟨hword, -⟩ := encode_inRow (.push idx)
  have hmatch : Mnemonic.push.matchWord = 0x1000 := by decide
  rw [hword, Instr.mnemonic, Instr.operandField, hmatch]

/-- Settles O12: case by case of PUSH; the buffer of the accepted one by the law of `packIndex`. -/
theorem pushEffect : Obligations.PushEffect := by
  refine ⟨encode_push, fun idx s hst => exec_push_of_not_collect hst idx, fun idx s hst hfull => ?_,
    fun idx s hmax hlen hst hlt => ?_⟩
  · rw [exec_push_of_full hst hfull, fatal_eq_of_ne_error s _ (by simp [hst])]
    rfl
  · have hroom : totalBits s.regs + 11 ≤ s.regs.buf.length := by simp only [totalBits]; omega
    refine ⟨_, exec_push_of_room hst hlt.ne idx, rfl, packIndex_wcount_toNat idx (hlt.trans_le hmax),
      packIndex_buf_length idx s.regs, fun n hn => ?_, fun p hp => ?_⟩
    · rw [State.respond_regs, State.withRegs_regs, bufBit_packIndex idx _ _ hroom, totalBits, if_pos (by omega),
        Nat.add_sub_cancel_left]
    · rw [State.respond_regs, State.withRegs_regs, bufBit_packIndex idx _ _ hroom, totalBits, if_neg (by omega)]

/-- R100, R101: packing indices writes the buffer and `WCOUNT` and no other register. -/
theorem packedRegs_frame (n : Nat) (ws : List Opnd) :
    packedRegs n ws = { Regs.reset n with buf := (packedRegs n ws).buf, wcount := (packedRegs n ws).wcount } := by
  induction ws using List.reverseRecOn with
  | nil => rfl
  | append_singleton ws x ih =>
    rw [packedRegs_concat, packIndex, ih]

/-- Settles O40: the pushes leave the packed registers, which are sound, so that nothing stands behind the indices. -/
theorem packingAList : Obligations.PackingAList := by
  intro s ws hinv hs hfresh hfit
  have hmax := hinv.build.2
  have hsound := packedRegs_sound hmax hfit
  have hcount := packedRegs_wcount s.maxWords (hfit.trans hmax)
  refine ⟨s.pushed ws, sendCommands_push hs (hinv.regs_of_freshSession hfresh) hmax hfit, fun hne => if_neg hne,
    packedRegs_frame .., hcount, hsound.bufLength, fun j n hj hn => bufBit_packedRegs hmax hfit hj hn,
    fun p hp hlt => hsound.tailZero p ?_ hlt⟩
  rwa [totalBits, hcount]

/-- R100, R186: pushes sent outside COLLECT leave nothing but the response of the last one. -/
theorem sendCommands_push_rejected {s : State} (hs : s.canSend) (hst : s.regs.st ≠ .collect) (ws : List Opnd) :
    sendCommands (ws.map .push) s =
      .next { s with rsp := if ws = [] then s.rsp else some ⟨false, 2⟩, agenda := [] } := by
  induction ws generalizing s with
  | nil => rfl
  | cons w ws ih =>
    have hrsp : (s.reject .badState).rsp = some ⟨false, 2⟩ := rfl
    have hrest := ih (s := s.reject .badState) hs hst
    rw [hrsp, ite_self] at hrest
    rw [List.map_cons, sendCommands_cons hs (exec_push_of_not_collect hst w), hrest, if_neg (List.cons_ne_nil w ws)]
    rfl

/-- R100: the list that fills the buffer is counted in full. -/
theorem packedRegs_wcount_of_full {n : Nat} (hmax : n ≤ Config.maxWordsLimit) {ws : List Opnd}
    (hfull : ws.length = n) : (packedRegs n ws).wcount.toNat = n := by
  rw [packedRegs_wcount n (hfull.trans_le hmax), hfull]

/-- The state after the pushes of `MAX_WORDS` indices `ws`, one index more and then `rest` (R100, R190). -/
def State.overflowedBy (s : State) (ws rest : List Opnd) : State :=
  { s with regs := (packedRegs s.maxWords ws).enterError .overflow,
           rsp := if rest = [] then some ⟨false, 5⟩ else some ⟨false, 2⟩, agenda := [] }

/-- R100, R188: the last response is OVERFLOW's when the overflowing index is the last one. -/
theorem State.overflowedBy_rsp_iff (s : State) (ws rest : List Opnd) :
    (s.overflowedBy ws rest).rsp = some ⟨false, 5⟩ ↔ rest = [] := by
  by_cases hrest : rest = [] <;> simp [State.overflowedBy, hrest]

/-- R100, R188, R190: the index after the last that fits enters ERROR, and every later one is rejected there. -/
theorem sendCommands_push_overflow {s : State} (hs : s.canSend) (hregs : s.regs = Regs.reset s.maxWords)
    (hmax : s.maxWords ≤ Config.maxWordsLimit) {ws : List Opnd} (hfull : ws.length = s.maxWords) (x : Opnd)
    (rest : List Opnd) : sendCommands ((ws ++ x :: rest).map .push) s = .next (s.overflowedBy ws rest) := by
  have hover : exec (.push x) (s.pushed ws) = .next ((s.pushed ws).fatal .overflow) :=
    exec_push_of_full (packedRegs_st ..) (packedRegs_wcount_of_full hmax hfull) x
  have herror : ((s.pushed ws).fatal .overflow).regs.st ≠ .collect := by simp
  rw [List.map_append, List.map_cons, sendCommands_append hs (sendCommands_push hs hregs hmax hfull.le),
    sendCommands_cons (hs.pushed ws) hover,
    sendCommands_push_rejected (exec_canSend hover (hs.pushed ws)) herror rest]
  rfl

/-- Settles O41: the list is cut at `MAX_WORDS`; sound registers in ERROR with OVERFLOW hold the full count (R33). -/
theorem tooManyWordsOverflow : Obligations.TooManyWordsOverflow := by
  intro s ws hinv hs hfresh hlong
  have hmax := hinv.build.2
  obtain ⟨ks, x, rest, rfl, hfull⟩ : ∃ ks x rest, ws = ks ++ x :: rest ∧ ks.length = s.maxWords :=
    ⟨ws.take s.maxWords, ws[s.maxWords], ws.drop (s.maxWords + 1),
      by rw [List.getElem_cons_drop, List.take_append_drop], List.length_take_of_le hlong.le⟩
  have hsound := (packedRegs_sound hmax hfull.le).enterError_overflow (packedRegs_st ..)
    (packedRegs_wcount_of_full hmax hfull)
  have herr : ((packedRegs s.maxWords ks).enterError .overflow).err = .fatal .overflow := by simp
  obtain ⟨hwcount, hkey, hcs⟩ := hsound.overflowed rfl herr
  refine ⟨_, sendCommands_push_overflow hs (hinv.regs_of_freshSession hfresh) hmax hfull x rest, rfl, herr, hwcount,
    hkey, hcs, ?_⟩
  rw [State.overflowedBy_rsp_iff, ← List.length_eq_zero_iff, List.length_append, List.length_cons, hfull]
  omega

end Sys2Proof.Machine
end

section
/-! SUPPORT. The splitter and its reads (41_splitter.md): SPLIT (R110, R111), RDBYTE (R122) and RDCS (R123) case by
case, and that no response shows the buffer before a valid split (R190). -/

namespace Sys2Proof.Machine

open Sys2Proof

/-- R110, R186: SPLIT outside COLLECT is rejected. -/
theorem exec_split_of_not_collect {s : State} (hst : s.regs.st ≠ .collect) :
    exec .split s = .next (s.reject .badState) := by
  rcases execSplit_cases s with ⟨-, he⟩ | ⟨hcollect, -⟩ | ⟨hcollect, -⟩
  · exact he
  · exact absurd hcollect hst
  · exact absurd hcollect hst

/-- Settles O13: case by case of SPLIT; the two counts fit their registers. -/
theorem splitEffect : Obligations.SplitEffect := by
  refine ⟨by decide, fun s hst => exec_split_of_not_collect hst, ?_⟩
  rintro s _ _ _ hst rfl rfl rfl
  by_cases hkey : splitKey s.regs % 32 = 0
  · exact ⟨_, exec_split_of_valid hst hkey, writeCounts_keybits_toNat _, writeCounts_csbits_toNat _, fun _ => rfl,
      fun hbad => absurd hkey hbad⟩
  · refine ⟨_, exec_split_of_invalid hst (mt splitKey_mod_of_wcount hkey), writeCounts_keybits_toNat _,
      writeCounts_csbits_toNat _, fun hgood => absurd hgood hkey, fun _ => ?_⟩
    rw [fatal_eq_of_ne_error _ _ (by simp [hst])]
    rfl

/-- R111: the counts of the split of `3 * q + e` words. -/
theorem split_counts_of_wcount {r : Regs} {q e : Nat} (hcount : r.wcount.toNat = 3 * q + e) (he : e < 3) :
    splitKey r = 32 * q + 11 * e ∧ splitChecksum r = q := by
  simp only [splitKey, splitChecksum, totalBits, hcount]
  omega

/-- R110, R111: SPLIT in COLLECT writes both counts, and is valid exactly for a multiple of 3 words. -/
theorem exec_split_of_collect {s : State} (hst : s.regs.st = .collect) :
    ∃ t, exec .split s = .next t ∧ t.regs.keybits.toNat = splitKey s.regs ∧
      t.regs.csbits.toNat = splitChecksum s.regs ∧ (t.regs.st = .split ↔ s.regs.wcount.toNat % 3 = 0) := by
  by_cases hthree : s.regs.wcount.toNat % 3 = 0
  · exact ⟨_, exec_split_of_valid hst (splitKey_mod_of_wcount hthree), writeCounts_keybits_toNat _,
      writeCounts_csbits_toNat _, by simp [hthree]⟩
  · exact ⟨_, exec_split_of_invalid hst hthree, writeCounts_keybits_toNat _, writeCounts_csbits_toNat _,
      by simp [hthree]⟩

/-- Settles O14: R111's arithmetic on the counts that SPLIT writes. -/
theorem splitValidExactlyOnMultiplesOfThree : Obligations.SplitValidExactlyOnMultiplesOfThree := by
  intro s q e hst hcount he
  obtain ⟨t, hexec, hkey, hcs, hvalid⟩ := exec_split_of_collect hst
  obtain ⟨hkeycount, hcscount⟩ := split_counts_of_wcount hcount he
  refine ⟨by omega, t, hexec, by omega, by omega, by omega, hvalid, fun hsplit => ?_, by omega⟩
  have hthree := hvalid.mp hsplit
  omega

/-- R187: the states without a readable split. -/
theorem Session.readable_eq_false_iff (v : Session) : v.readable = false ↔ v = .collect ∨ v = .error := by
  cases v <;> decide

/-- R187: the states with a readable split. -/
theorem Session.readable_eq_true_iff (v : Session) : v.readable = true ↔ v = .split ∨ v = .vwait ∨ v = .done := by
  cases v <;> decide

section Reads
variable {s : State} {k : Opnd}

/-- R122, R187: RDBYTE without a split. -/
theorem exec_rdbyte_of_not_readable (hst : s.regs.st.readable = false) :
    exec (.rdbyte k) s = .next (s.reject .badState) :=
  if_pos hst

/-- R122: RDBYTE past the entropy. -/
theorem exec_rdbyte_of_past_end (hst : s.regs.st.readable = true) (hend : entropyLen s.regs ≤ k.toNat) :
    exec (.rdbyte k) s = .next (s.reject .badIndex) := by
  rcases execRdbyte_cases k s with ⟨hother, -⟩ | ⟨-, -, he⟩ | ⟨-, hlt, -⟩
  · simp [hst] at hother
  · exact he
  · omega

/-- R122: RDBYTE of a byte of the entropy. -/
theorem exec_rdbyte_of_lt (hst : s.regs.st.readable = true) (hlt : k.toNat < entropyLen s.regs) :
    exec (.rdbyte k) s = .next (s.respond true ((entropyByte s.regs k.toNat).setWidth 16)) := by
  rcases execRdbyte_cases k s with ⟨hother, -⟩ | ⟨-, hend, -⟩ | ⟨-, -, he⟩
  · simp [hst] at hother
  · omega
  · exact he

/-- R123, R187: RDCS without a split. -/
theorem exec_rdcs_of_not_readable (hst : s.regs.st.readable = false) :
    exec (.rdcs k) s = .next (s.reject .badState) :=
  if_pos hst

/-- R123: RDCS past the last checksum chunk. -/
theorem exec_rdcs_of_past_end (hst : s.regs.st.readable = true) (hend : s.regs.csbits.toNat ≤ 8 * k.toNat) :
    exec (.rdcs k) s = .next (s.reject .badIndex) := by
  rcases execRdcs_cases k s with ⟨hother, -⟩ | ⟨-, -, he⟩ | ⟨-, hlt, -⟩
  · simp [hst] at hother
  · exact he
  · omega

/-- R123: RDCS of a checksum chunk. -/
theorem exec_rdcs_of_lt (hst : s.regs.st.readable = true) (hlt : 8 * k.toNat < s.regs.csbits.toNat) :
    exec (.rdcs k) s = .next (s.respond true ((checksumChunk s.regs k.toNat).setWidth 16)) := by
  rcases execRdcs_cases k s with ⟨hother, -⟩ | ⟨-, hend, -⟩ | ⟨-, -, he⟩
  · simp [hst] at hother
  · omega
  · exact he

end Reads

/-- R72, R80: a command's word is its mnemonic's match word or'ed with its operand. -/
theorem encode_of_matchWord (i : Instr) {m : Mnemonic} {w : Word} (hi : i.mnemonic = m) (hm : m.matchWord = w) :
    encode i = w ||| i.operandField.setWidth 16 := by
  obtain ⟨hword, -⟩ := encode_inRow i
  rw [hword, hi, hm]

/-- R76: a byte as response data is below 256. -/
theorem byte_setWidth_toNat_lt (d : Byte) : (d.setWidth 16 : Word).toNat < 256 := by
  rw [BitVec.toNat_setWidth_of_le (by decide)]
  exact d.isLt

/-- R76: a byte as response data keeps its bits. -/
theorem byte_setWidth_getLsbD (d : Byte) (b : Nat) : (d.setWidth 16 : Word).getLsbD (7 - b) = d.getLsbD (7 - b) := by
  have hb : 7 - b < 16 := by omega
  simp [hb]

/-- Settles O18: case by case of RDBYTE; the bits of the answered byte by the law of `entropyByte`. -/
theorem rdbyteEffect : Obligations.RdbyteEffect := by
  refine ⟨fun k => encode_of_matchWord (m := .rdbyte) (.rdbyte k) rfl (by decide),
    fun k s hst => exec_rdbyte_of_not_readable ((Session.readable_eq_false_iff _).mpr hst),
    fun k s hst hend => exec_rdbyte_of_past_end ((Session.readable_eq_true_iff _).mpr hst) hend,
    fun k s hst hlt => ⟨_, exec_rdbyte_of_lt ((Session.readable_eq_true_iff _).mpr hst) hlt,
      byte_setWidth_toNat_lt _, fun b hb => ?_⟩⟩
  rw [byte_setWidth_getLsbD, entropyByte_getLsbD _ _ hb]

/-- Settles O19: case by case of RDCS; the bits of the answered byte by the law of `checksumChunk`. -/
theorem rdcsEffect : Obligations.RdcsEffect := by
  refine ⟨fun j => encode_of_matchWord (m := .rdcs) (.rdcs j) rfl (by decide),
    fun j s hst => exec_rdcs_of_not_readable ((Session.readable_eq_false_iff _).mpr hst),
    fun j s hst hend => exec_rdcs_of_past_end ((Session.readable_eq_true_iff _).mpr hst) hend,
    fun j s hst hlt => ⟨_, exec_rdcs_of_lt ((Session.readable_eq_true_iff _).mpr hst) hlt,
      byte_setWidth_toNat_lt _, fun b hb => ?_⟩⟩
  rw [byte_setWidth_getLsbD, checksumChunk_getLsbD _ _ hb]
  by_cases hin : 8 * j.toNat + b < s.regs.csbits.toNat <;> simp [hin, checksumBit]

/-- The state with another buffer. -/
def State.withBuf (s : State) (buf' : List Bool) : State := { s with regs := { s.regs with buf := buf' } }

/-- Settles O26: outside SPLIT, VWAIT and DONE each command is answered by a case whose premise and whose response do
not mention BUF, so the case that answers in one state answers in the other. -/
theorem noBufferBitLeavesWithoutASplit : Obligations.NoBufferBitLeavesWithoutASplit := by
  intro i s buf' hst
  change ∃ t t', exec i s = .next t ∧ exec i (s.withBuf buf') = .next t' ∧ t'.rsp = t.rsp
  have hread : s.regs.st.readable = false := (Session.readable_eq_false_iff _).mpr hst
  have hwait : s.regs.st ≠ .vwait := by rcases hst with h | h <;> simp [h]
  have hsplit : s.regs.st ≠ .split := by rcases hst with h | h <;> simp [h]
  cases i with
  | nop | rdstat | rdinfo => exact ⟨_, _, rfl, rfl, rfl⟩
  | clear => exact ⟨_, _, if_neg hwait, if_neg hwait, rfl⟩
  | verify => exact ⟨_, _, if_pos hsplit, if_pos hsplit, rfl⟩
  | push idx =>
    by_cases hcollect : s.regs.st = .collect
    · by_cases hfull : s.regs.wcount.toNat = s.maxWords
      · exact ⟨_, _, exec_push_of_full hcollect hfull idx,
        exec_push_of_full (s := s.withBuf buf') hcollect hfull idx, rfl⟩
      · exact ⟨_, _, exec_push_of_room hcollect hfull idx,
        exec_push_of_room (s := s.withBuf buf') hcollect hfull idx, rfl⟩
    · exact ⟨_, _, exec_push_of_not_collect hcollect idx,
      exec_push_of_not_collect (s := s.withBuf buf') hcollect idx, rfl⟩
  | split =>
    by_cases hcollect : s.regs.st = .collect
    · by_cases hthree : s.regs.wcount.toNat % 3 = 0
      · have hkey := splitKey_mod_of_wcount hthree
        exact ⟨_, _, exec_split_of_valid hcollect hkey, exec_split_of_valid hcollect hkey, rfl⟩
      · exact ⟨_, _, exec_split_of_invalid hcollect hthree, exec_split_of_invalid hcollect hthree, rfl⟩
    · exact ⟨_, _, exec_split_of_not_collect hcollect, exec_split_of_not_collect hcollect, rfl⟩
  | rdbyte k => exact ⟨_, _, exec_rdbyte_of_not_readable hread, exec_rdbyte_of_not_readable hread, rfl⟩
  | rdcs j => exact ⟨_, _, exec_rdcs_of_not_readable hread, exec_rdcs_of_not_readable hread, rfl⟩

end Sys2Proof.Machine
end

section
/-! SUPPORT. What a split of pushed indices gives back (R124, R125): entropy and checksum are equal exactly when their
bits in the buffer are, groups of 11 bits pack the bits they were cut from, and the last index stands at the end. -/

namespace Sys2Proof.Machine

open Sys2Proof

/-- R120: an entropy byte is the byte of its eight bits in the buffer. -/
theorem entropyByte_eq_iff (r : Regs) (k : Nat) (d : Byte) :
    entropyByte r k = d ↔ ∀ b, b < 8 → bufBit r.buf (8 * k + b) = d.getLsbD (7 - b) := by
  constructor
  · rintro rfl b hb
    exact (entropyByte_getLsbD r k hb).symm
  · intro h
    apply BitVec.eq_of_getMsbD_eq
    intro b hb
    simp only [BitVec.getMsbD, hb, decide_true, Bool.true_and, Nat.add_one_sub_one]
    rw [entropyByte_getLsbD r k hb, h b hb]

/-- R120: two entropies of equal length are equal exactly when their bits in the buffer are. -/
theorem entropyBytes_eq_iff {r r' : Regs} (hkey : r.keybits = r'.keybits)
    (hbytes : 8 * entropyLen r = r.keybits.toNat) :
    entropyBytes r = entropyBytes r' ↔ ∀ p, p < r.keybits.toNat → bufBit r.buf p = bufBit r'.buf p := by
  have hlen : entropyLen r' = entropyLen r := by rw [entropyLen, entropyLen, hkey]
  have hbyte (k : Nat) : entropyByte r k = entropyByte r' k ↔
      ∀ b, b < 8 → bufBit r.buf (8 * k + b) = bufBit r'.buf (8 * k + b) := by
    rw [entropyByte_eq_iff]
    exact forall₂_congr fun b hb => by rw [entropyByte_getLsbD r' k hb]
  simp only [entropyBytes, hlen, List.map_inj_left, List.mem_range, hbyte]
  constructor
  · intro h p hp
    simpa only [Nat.div_add_mod] using h (p / 8) (by omega) (p % 8) (by omega)
  · intro h k hk b hb
    exact h _ (by omega)

/-- R121: two checksums of equal length are equal exactly when their bits are. -/
theorem checksumBits_eq_iff {r r' : Regs} (hcs : r.csbits = r'.csbits) :
    checksumBits r = checksumBits r' ↔ ∀ n, n < r.csbits.toNat → checksumBit r n = checksumBit r' n := by
  simp only [checksumBits, ← hcs, List.map_inj_left, List.mem_range]

/-- The `m` indices that are the successive 11-bit groups of a bit string (R124). -/
def indexGroups (m : Nat) (f : Nat → Bool) : List Opnd :=
  (List.range m).map fun j => BitVec.ofNat 11 (msbFirst 11 fun t => f (11 * j + t))

@[simp] theorem indexGroups_length (m : Nat) (f : Nat → Bool) : (indexGroups m f).length = m := by simp [indexGroups]

/-- The pushes of the groups, as R124 writes them. -/
theorem indexGroups_map_push (m : Nat) (f : Nat → Bool) : (indexGroups m f).map Instr.push =
    (List.range m).map fun j => .push (BitVec.ofNat 11 (msbFirst 11 fun t => f (11 * j + t))) :=
  List.map_map

/-- Bit `10 - t` of group `j` is bit `11 * j + t` of the string. -/
theorem indexGroups_getLsbD {m : Nat} (f : Nat → Bool) {j t : Nat} (hj : j < m) (ht : t ≤ 10) :
    ((indexGroups m f).getD j 0).getLsbD (10 - t) = f (11 * j + t) := by
  have hin : 10 - t < 11 := by omega
  have hgroup : (indexGroups m f).getD j 0 = BitVec.ofNat 11 (msbFirst 11 fun t => f (11 * j + t)) := by
    simp [indexGroups, List.getD_eq_getElem?_getD, hj]
  simp only [hgroup, BitVec.getLsbD_ofNat, hin, decide_true, Bool.true_and]
  exact msbFirst_testBit 11 (fun t => f (11 * j + t)) (by omega)

/-- R110: a split does not touch the buffer. -/
@[simp] theorem splitRegs_buf (n : Nat) (ws : List Opnd) : (splitRegs n ws).buf = (packedRegs n ws).buf := rfl

/-- R101, R124: packing the groups of a bit string gives its bits. -/
theorem bufBit_splitRegs_indexGroups {n m : Nat} (hmax : n ≤ Config.maxWordsLimit) (hfit : m ≤ n) (f : Nat → Bool)
    {p : Nat} (hp : p < 11 * m) : bufBit (splitRegs n (indexGroups m f)).buf p = f p := by
  have hj : p / 11 < m := by omega
  have ht : p % 11 ≤ 10 := by omega
  have hbit := bufBit_packedRegs (ws := indexGroups m f) hmax (by simpa using hfit) (by simpa using hj) ht
  rwa [indexGroups_getLsbD f hj ht, Nat.div_add_mod, ← splitRegs_buf] at hbit

/-- R124: bit `b` of byte `k` of `E` stands at position `8 * k + b` of `E ++ c`. -/
theorem entropyThenChecksum_of_byte (q : Nat) (E : List Byte) (c : BitVec q) {k b : Nat} (hk : k < 4 * q) (hb : b < 8) :
    entropyThenChecksum q E c (8 * k + b) = (E.getD k 0).getLsbD (7 - b) := by
  have hdiv : (8 * k + b) / 8 = k := by omega
  have hmod : (8 * k + b) % 8 = b := by omega
  rw [entropyThenChecksum, if_pos (by omega), hdiv, hmod]

/-- R124: the bits of `c` stand behind those of `E` in `E ++ c`. -/
theorem entropyThenChecksum_of_checksum (q : Nat) (E : List Byte) (c : BitVec q) (n : Nat) :
    entropyThenChecksum q E c (32 * q + n) = c.getLsbD (q - 1 - n) := by
  rw [entropyThenChecksum, if_neg (by omega), Nat.add_sub_cancel_left]

/-- R111: KEYBITS and CSBITS of a valid split of `3 * q` indices. -/
theorem splitRegs_keybits_csbits {n q : Nat} {ws : List Opnd} (hmax : n ≤ Config.maxWordsLimit) (hfit : ws.length ≤ n)
    (hq : ws.length = 3 * q) : (splitRegs n ws).keybits.toNat = 32 * q ∧ (splitRegs n ws).csbits.toNat = q := by
  have hcounts := countsOf_splitRegs hmax hfit hq
  simp only [countsOf, Counts.mk.injEq] at hcounts
  exact hcounts.2

/-- R122, R124: RDBYTE of a byte index written as a number. -/
theorem exec_rdbyte_ofNat {s : State} {k : Nat} {d : Byte} (hst : s.regs.st.readable = true)
    (hk : k < entropyLen s.regs) (hfield : k < 2048) (hbyte : entropyByte s.regs k = d) :
    exec (.rdbyte (BitVec.ofNat 11 k)) s = .next (s.respond true (d.setWidth 16)) := by
  have htoNat : (BitVec.ofNat 11 k).toNat = k := Nat.mod_eq_of_lt hfield
  rw [exec_rdbyte_of_lt hst (htoNat.symm ▸ hk), htoNat, hbyte]

/-- Settles O42: the buffer holds `E ++ c`, cut after the `32 * q` bits of `E`. -/
theorem entropyRoundTrip : Obligations.EntropyRoundTrip := by
  intro s q E c hinv hs hfresh _ hfit
  have hmax := hinv.build.2
  have hlen := indexGroups_length (3 * q) (entropyThenChecksum q E c)
  have hfit' := hlen.trans_le hfit
  obtain ⟨hkey, hcs⟩ := splitRegs_keybits_csbits hmax hfit' hlen
  have hbit {p : Nat} (hp : p < 33 * q) :=
    bufBit_splitRegs_indexGroups (p := p) hmax hfit (entropyThenChecksum q E c) (by omega)
  rw [← indexGroups_map_push]
  refine ⟨_, sendCommands_push_split hs (hinv.regs_of_freshSession hfresh) hmax hfit' (by omega), rfl, hkey, hcs,
    fun k hk => exec_rdbyte_ofNat rfl ?_ ?_ ?_, fun n hn => ?_⟩
  · simp only [entropyLen, hkey]
    omega
  · simp only [Config.maxWordsLimit] at hmax
    omega
  · rw [entropyByte_eq_iff]
    intro b hb
    rw [hbit (by omega), entropyThenChecksum_of_byte q E c hk hb]
  · rw [checksumBit, hkey, hbit (by omega), entropyThenChecksum_of_checksum]

section LastIndex
variable {n q : Nat} {ws : List Opnd} (hmax : n ≤ Config.maxWordsLimit) (hfit : ws.length + 1 ≤ n)
include hmax hfit

/-- R101, R125: the last index is the buffer's last 11 bits. -/
theorem bufBit_splitRegs_last (x : Opnd) {t : Nat} (ht : t ≤ 10) :
    bufBit (splitRegs n (ws ++ [x])).buf (11 * ws.length + t) = x.getLsbD (10 - t) := by
  rw [splitRegs_buf, bufBit_packedRegs hmax (by simpa using hfit) (by simp) ht]
  simp

/-- R100, R125: the last index leaves the bits before it as they are. -/
theorem bufBit_splitRegs_before_last (x : Opnd) {p : Nat} (hp : p < 11 * ws.length) :
    bufBit (splitRegs n (ws ++ [x])).buf p = bufBit (packedRegs n ws).buf p := by
  have hbits : totalBits (packedRegs n ws) = 11 * ws.length := by rw [totalBits, packedRegs_wcount n (by omega)]
  have hroom : totalBits (packedRegs n ws) + 11 ≤ (packedRegs n ws).buf.length := by
    rw [(packedRegs_sound hmax (by omega)).bufLength]
    omega
  rw [splitRegs_buf, packedRegs_concat, bufBit_packIndex x _ _ hroom, hbits, if_neg (by omega)]

variable (hq : ws.length + 1 = 3 * q)
include hq

/-- R111: the counts of the split, whatever the last index is. -/
theorem splitRegs_last_counts (x : Opnd) :
    (splitRegs n (ws ++ [x])).keybits.toNat = 32 * q ∧ (splitRegs n (ws ++ [x])).csbits.toNat = q :=
  splitRegs_keybits_csbits hmax (by simpa using hfit) (by simpa using hq)

/-- R111: two last indices give the same counts. -/
theorem splitRegs_last_counts_eq (x y : Opnd) :
    (splitRegs n (ws ++ [x])).keybits = (splitRegs n (ws ++ [y])).keybits ∧
      (splitRegs n (ws ++ [x])).csbits = (splitRegs n (ws ++ [y])).csbits := by
  obtain ⟨hkeyx, hcsx⟩ := splitRegs_last_counts hmax hfit hq x
  obtain ⟨hkeyy, hcsy⟩ := splitRegs_last_counts hmax hfit hq y
  exact ⟨BitVec.eq_of_toNat_eq (hkeyx.trans hkeyy.symm), BitVec.eq_of_toNat_eq (hcsx.trans hcsy.symm)⟩

/-- R125: two last indices give the same entropy exactly when their high bits agree. -/
theorem entropyBytes_splitRegs_last_iff (x y : Opnd) :
    entropyBytes (splitRegs n (ws ++ [x])) = entropyBytes (splitRegs n (ws ++ [y])) ↔
      ∀ b, q ≤ b → x.getLsbD b = y.getLsbD b := by
  obtain ⟨hkey, -⟩ := splitRegs_last_counts hmax hfit hq x
  have hthree : (ws ++ [x]).length % 3 = 0 := by
    rw [List.length_append, List.length_singleton]
    omega
  have hbytes := splitRegs_entropyLen (ws := ws ++ [x]) hmax (by simpa using hfit) hthree
  have hbit (z : Opnd) {t : Nat} (ht : t ≤ 10) := bufBit_splitRegs_last hmax hfit z ht
  rw [entropyBytes_eq_iff (splitRegs_last_counts_eq hmax hfit hq x y).1 hbytes, hkey]
  constructor
  · intro h b hb
    by_cases hin : b < 11
    · have hback : 10 - (10 - b) = b := by omega
      simpa only [hbit x (Nat.sub_le 10 b), hbit y (Nat.sub_le 10 b), hback]
        using h (11 * ws.length + (10 - b)) (by omega)
    · rw [BitVec.getLsbD_of_ge x b (by omega), BitVec.getLsbD_of_ge y b (by omega)]
  · intro h p hp
    by_cases hbefore : p < 11 * ws.length
    · rw [bufBit_splitRegs_before_last hmax hfit x hbefore, bufBit_splitRegs_before_last hmax hfit y hbefore]
    · obtain ⟨t, rfl⟩ := Nat.exists_eq_add_of_le (Nat.not_lt.mp hbefore)
      rw [hbit x (by omega), hbit y (by omega), h _ (by omega)]

variable (hlow : q ≤ 11)
include hlow

/-- R125: the checksum bits are the low bits of the last index. -/
theorem checksumBit_splitRegs_last (x : Opnd) {m : Nat} (hm : m < q) :
    checksumBit (splitRegs n (ws ++ [x])) m = x.getLsbD (q - 1 - m) := by
  obtain ⟨hkey, -⟩ := splitRegs_last_counts hmax hfit hq x
  have hpos : 32 * q + m = 11 * ws.length + (11 - q + m) := by omega
  have hidx : 10 - (11 - q + m) = q - 1 - m := by omega
  rw [checksumBit, hkey, hpos, bufBit_splitRegs_last hmax hfit x (by omega), hidx]

/-- R125: two last indices give the same checksum exactly when their low bits agree. -/
theorem checksumBits_splitRegs_last_iff (x y : Opnd) :
    checksumBits (splitRegs n (ws ++ [x])) = checksumBits (splitRegs n (ws ++ [y])) ↔
      ∀ b, b < q → x.getLsbD b = y.getLsbD b := by
  obtain ⟨-, hcs⟩ := splitRegs_last_counts hmax hfit hq x
  rw [checksumBits_eq_iff (splitRegs_last_counts_eq hmax hfit hq x y).2, hcs]
  have hbit (z : Opnd) {m : Nat} (hm : m < q) := checksumBit_splitRegs_last hmax hfit hq hlow z hm
  constructor
  · intro h b hb
    have hback : q - 1 - (q - 1 - b) = b := by omega
    simpa only [hbit x (show q - 1 - b < q by omega), hbit y (show q - 1 - b < q by omega), hback]
      using h (q - 1 - b) (by omega)
  · intro h m hm
    rw [hbit x hm, hbit y hm, h _ (by omega)]

end LastIndex

/-- R101, R110: sending `ws`, one index more, and SPLIT. -/
theorem sendCommands_push_last_split {s : State} (hinv : s.Inv) (hs : s.canSend) (hfresh : s.freshSession)
    {ws : List Opnd} (hthree : (ws.length + 1) % 3 = 0) (hfit : ws.length + 1 ≤ s.maxWords) (x : Opnd) :
    sendCommands ((ws ++ [x]).map .push ++ [.split]) s = .next
      { s with regs := splitRegs s.maxWords (ws ++ [x]), rsp := some ⟨true, 0⟩, agenda := [] } :=
  sendCommands_push_split hs (hinv.regs_of_freshSession hfresh) hinv.build.2 (by simpa using hfit)
    (by simpa using hthree)

/-- Settles O44: the buffer ends with the last index, and the split cuts that index after its `11 - CSBITS` high
bits. -/
theorem checksumSitsInTheLastIndex : Obligations.ChecksumSitsInTheLastIndex := by
  intro s ws x y hinv hs hfresh hthree hlong hfit
  have hmax := hinv.build.2
  obtain ⟨q, hq⟩ : ∃ q, ws.length + 1 = 3 * q := Nat.dvd_of_mod_eq_zero hthree
  have hlow : q ≤ 11 := by omega
  obtain ⟨hkey, hcs⟩ := splitRegs_last_counts hmax hfit hq x
  obtain ⟨-, hcsy⟩ := splitRegs_last_counts hmax hfit hq y
  have hentropy := entropyBytes_splitRegs_last_iff hmax hfit hq x y
  have hchecksum := checksumBits_splitRegs_last_iff hmax hfit hq hlow x y
  refine ⟨_, _, q, sendCommands_push_last_split hinv hs hfresh hthree hfit x,
    sendCommands_push_last_split hinv hs hfresh hthree hfit y, hcs.symm, hcsy.symm, hlow,
    fun m hm => checksumBit_splitRegs_last hmax hfit hq hlow x hm, fun t ht => ?_,
    fun hhigh => ⟨(hentropy.mpr hhigh).symm, fun hne hsame => hne ?_⟩, fun ⟨b, hb, hne⟩ hsame => ?_⟩
  · have hpos : 32 * q - (11 - q) + t = 11 * ws.length + t := by omega
    rw [hkey, hpos]
    exact bufBit_splitRegs_last hmax hfit x (by omega)
  · apply BitVec.eq_of_getLsbD_eq
    intro b _
    by_cases hb : b < q
    · exact hchecksum.mp hsame.symm b hb
    · exact hhigh b (by omega)
  · exact hne (hentropy.mp hsame.symm b hb)

end Sys2Proof.Machine
end

section
/-! SUPPORT. The verifier (42_verifier.md): VERIFY and its request (R140), the handling of the stub's response (R142,
R143), and the stub's protocol (R141, R144). -/

namespace Sys2Proof.Machine

open Sys2Proof

section Request
variable (r : Regs)

/-- R120: the entropy, byte by byte. -/
theorem entropyBytes_getD {k : Nat} (hk : k < entropyLen r) (d : Byte) :
    (entropyBytes r).getD k d = entropyByte r k := by
  simp [entropyBytes, List.getD_eq_getElem?_getD, hk]

/-- R121: the checksum, bit by bit. -/
theorem checksumBits_getD {n : Nat} (hn : n < r.csbits.toNat) (d : Bool) :
    (checksumBits r).getD n d = checksumBit r n := by
  simp [checksumBits, List.getD_eq_getElem?_getD, hn]

/-- R43: `vreq_len` holds the number of entropy bytes exactly. -/
theorem requestOf_len_toNat : (requestOf r).len.toNat = entropyLen r := by
  have hkey : r.keybits.toNat < 2 ^ 14 := r.keybits.isLt
  refine Nat.mod_eq_of_lt ?_
  simp only [entropyLen]
  omega

end Request

/-- R140, R186: VERIFY outside SPLIT is rejected. -/
theorem exec_verify_of_not_split {s : State} (hst : s.regs.st ≠ .split) :
    exec .verify s = .next (s.reject .badState) :=
  if_pos hst

/-- R140: VERIFY in SPLIT places the request and waits. -/
theorem exec_verify_of_split {s : State} (hst : s.regs.st = .split) :
    exec .verify s = .next ((s.placeRequest.withRegs (s.regs.goto .vwait)).respond true 0) :=
  if_neg (not_not.mpr hst)

/-- Settles O15: case by case of VERIFY; the payload's bits by the laws of the entropy and the checksum. -/
theorem verifyEffect : Obligations.VerifyEffect := by
  refine ⟨by decide, fun s hst => exec_verify_of_not_split hst, fun s hst =>
    ⟨_, requestOf s.regs, exec_verify_of_split hst, rfl, requestOf_len_toNat _, entropyBytes_length _,
      fun k b hk hb => ?_, rfl, checksumBits_length _, fun n hn => checksumBits_getD s.regs hn false⟩⟩
  change ((entropyBytes s.regs).getD k 0).getLsbD (7 - b) = _
  rw [entropyBytes_getD s.regs hk, entropyByte_getLsbD s.regs k hb]

/-- Settles O32: the cases of a response taken, of which the state `ST` selects one. -/
theorem stubResponseHandling : Obligations.StubResponseHandling := by
  intro s m ms ha hrst hrsp
  have hstep : step s = .next (takesResponse s.begin) := step_of_agenda_cons s .takeAnswer ms ha
  have hbegin : s.begin = { s with agenda := ms, rsp := none } := by rw [State.begin, ha, List.tail_cons]
  rw [hstep, hbegin]
  rcases takesResponse_cases { s with agenda := ms, rsp := none } with
    ⟨hnone, -⟩ | ⟨m', hm', -, hwait, he⟩ | ⟨-, -, hwhy, he⟩
  · simp [hrsp] at hnone
  · obtain rfl : m = m' := Option.some.inj (hrsp.symm.trans hm')
    exact ⟨fun _ => congrArg _ he, fun hother => absurd hwait hother⟩
  · have hother : s.regs.st ≠ .vwait := hwhy.resolve_left (by simp [hrst])
    exact ⟨fun hst => absurd hst hother, fun _ => congrArg _ he⟩

section Protocol
variable {s t : State}

/-- R144: an answer on the channel was there before, or the stub has just given it for the request it held. -/
theorem StepEffect.answer_cases (h : StepEffect s t) {m : Bool} (hm : t.vrsp = some m) :
    s.vrsp = some m ∨
      (s.moves .stubAnswer ∧ t.stub = none ∧ ∃ q, s.stub = some q ∧ m = verdictOf q.msg q.cs) := by
  cases h with
  | stubAnswered q hmove _ hstub => exact .inr ⟨hmove, rfl, q, hstub, (Option.some.inj hm).symm⟩
  | performed i t _ he =>
    obtain ⟨r, q, a, rfl⟩ := he.frame
    exact .inl hm
  | idle | offered | illegal | stubAccepted => exact .inl hm
  | recorded | discarded | raised | released | lost => cases hm

/-- R141, R144: a request the stub holds was held before, or has just been accepted from the channel. -/
theorem StepEffect.held_cases (h : StepEffect s t) {q : Request} (hq : t.stub = some q) :
    s.stub = some q ∨ (s.moves .stubAccept ∧ s.vreq = some q ∧ t.vreq = none) := by
  cases h with
  | stubAccepted q' hmove _ hreq => exact .inr ⟨hmove, hreq.trans hq, rfl⟩
  | performed i t _ he =>
    obtain ⟨r, q', a, rfl⟩ := he.frame
    exact .inl hq
  | idle | offered | illegal | recorded | discarded => exact .inl hq
  | stubAnswered | raised | released | lost => cases hq

/-- R32, R144: the stub's moves write no register; what does is a reset, a command or an answer taken. -/
theorem StepEffect.regs_eq_of_stub_moves (h : StepEffect s t) {m : Move} (hm : s.moves m)
    (hstub : m = .stubAccept ∨ m = .stubAnswer) : t.regs = s.regs := by
  have hnot {m' : Move} (haccept : .stubAccept ≠ m') (hanswer : .stubAnswer ≠ m') : ¬ s.moves m' :=
    hm.not_of_ne (by rcases hstub with rfl | rfl <;> assumption)
  cases h with
  | idle | offered | illegal | stubAccepted | stubAnswered | discarded => rfl
  | performed i t hp =>
    obtain ⟨hperform, -⟩ := hp
    exact absurd hperform (hnot nofun nofun)
  | recorded _ hother | raised hother | released hother | lost _ hother => exact absurd hother (hnot nofun nofun)

end Protocol

/-- Settles O33: what each effect of a step does to the answer, to the request held and to the registers. -/
theorem stubProtocol : Obligations.StubProtocol := by
  intro s t h
  have heffect := step_effect h
  refine ⟨fun _ => heffect.answer_cases, fun _ => heffect.held_cases, ?_⟩
  rintro (haccept | hanswer)
  · exact heffect.regs_eq_of_stub_moves haccept (.inl rfl)
  · exact heffect.regs_eq_of_stub_moves hanswer (.inr rfl)

end Sys2Proof.Machine
end

section
/-! SUPPORT. The stub's function `Verify` (R146) for up to 256 checksum bits: bit by bit, as integers (R147), and that
no two checksums of one length verify for one message (R149). -/

namespace Sys2Proof.Machine

open Sys2Proof

/-- R146: `Verify` answers Match exactly when every checksum bit is the digest bit of its position. -/
theorem verdictOf_eq_true_iff (msg : List Byte) {cbits : List Bool} (hlen : cbits.length ≤ 256) :
    verdictOf msg cbits = true ↔ ∀ n, n < cbits.length → cbits.getD n false = digestBit (Config.H msg) n := by
  simp only [verdictOf, if_pos hlen, bitsAgree, List.all_eq_true, List.mem_range, beq_iff_eq]

/-- R146: a digest bit, in its byte of the digest. -/
theorem digestBit_of_lt (h : Digest) {n : Nat} (hn : n / 8 < 32) : digestBit h n = h[n / 8].getLsbD (7 - n % 8) := by
  simp [digestBit, List.getD_eq_getElem?_getD, hn]

/-- Settles O35: the comparison loop of R146, whose positions below 256 are those of the digest's 32 bytes. -/
theorem verifyComparesEveryBit : Obligations.VerifyComparesEveryBit := by
  intro msg cbits hlen
  rw [verdictOf_eq_true_iff msg hlen]
  refine forall₂_congr fun n hn => ?_
  have hbyte : n / 8 < 32 := by omega
  simp only [hbyte, forall_true_left, digestBit_of_lt _ hbyte, List.getD_eq_getElem _ _ hn]

/-- R13: two numbers of `n` bits are equal exactly when their bits are. -/
theorem msbFirst_inj {n : Nat} {f g : Nat → Bool} : msbFirst n f = msbFirst n g ↔ ∀ t, t < n → f t = g t := by
  refine ⟨fun h t ht => ?_, msbFirst_congr⟩
  rw [← msbFirst_testBit n f ht, h, msbFirst_testBit n g ht]

/-- The big-endian number of a list of bytes is the number of its bits, each byte's most significant first. -/
theorem foldl_bytes_eq_msbFirst (bytes : List Byte) :
    bytes.foldl (fun d b => 256 * d + b.toNat) 0 =
      msbFirst (8 * bytes.length) fun i => (bytes.getD (i / 8) 0).getLsbD (7 - i % 8) := by
  induction bytes using List.reverseRecOn with
  | nil => rfl
  | append_singleton bytes b ih =>
    have hfirst : ∀ i, i < 8 * bytes.length → ((bytes ++ [b]).getD (i / 8) 0).getLsbD (7 - i % 8) =
        (bytes.getD (i / 8) 0).getLsbD (7 - i % 8) := by
      intro i hi
      rw [List.getD_append _ _ _ _ (by omega)]
    have hlast : ∀ t, t < 8 → ((bytes ++ [b]).getD ((8 * bytes.length + t) / 8) 0).getLsbD
        (7 - (8 * bytes.length + t) % 8) = b.getLsbD (8 - 1 - t) := by
      intro t ht
      have hdiv : (8 * bytes.length + t) / 8 = bytes.length := by omega
      have hmod : (8 * bytes.length + t) % 8 = t := by omega
      rw [hdiv, hmod]
      simp
    rw [List.foldl_append, ih, List.length_append, List.length_singleton, Nat.mul_succ, msbFirst_add,
      msbFirst_congr hfirst, msbFirst_congr hlast, msbFirst_getLsbD, List.foldl_cons, List.foldl_nil]
    ring

/-- R147: the digest's leading `n` bits, as a number. -/
theorem digest_leading_bits (h : Digest) {n : Nat} (hn : n ≤ 256) :
    h.toList.foldl (fun d b => 256 * d + b.toNat) 0 / 2 ^ (256 - n) = msbFirst n (digestBit h) := by
  have hvalue : h.toList.foldl (fun d b => 256 * d + b.toNat) 0 = msbFirst (n + (256 - n)) (digestBit h) := by
    rw [foldl_bytes_eq_msbFirst, Vector.length_toList, Nat.add_sub_cancel' hn]
    rfl
  rw [hvalue, msbFirst_add_div]

/-- R147: with no checksum bits `Verify` answers Match. -/
theorem verdictOf_of_no_bits (msg : List Byte) : verdictOf msg [] = true :=
  (verdictOf_eq_true_iff msg (Nat.zero_le _)).mpr nofun

/-- R111: a split of zero words has no checksum bits. -/
theorem Regs.Sound.checksumBits_eq_nil {n : Nat} {r : Regs} (h : r.Sound n) (hst : r.st = .done)
    (hcount : r.wcount = 0) : checksumBits r = [] := by
  obtain ⟨-, hcs, -⟩ := h.splitDone (.inr (.inr hst))
  rw [← List.length_eq_zero_iff, checksumBits_length, hcs, totalBits, hcount]
  rfl

/-- Settles O36: equal numbers of as many bits have equal bits; a sound verdict is `Verify` of the session's bits. -/
theorem verifyAsLeadingBits : Obligations.VerifyAsLeadingBits := by
  refine ⟨fun msg cbits hlen => ?_, verdictOf_of_no_bits, fun s hinv hst hcount => ?_⟩
  · rw [verdictOf_eq_true_iff msg hlen, digest_leading_bits _ hlen, msbFirst_inj]
  · rw [hinv.regs.verdictTrue hst, hinv.regs.checksumBits_eq_nil hst hcount, verdictOf_of_no_bits]
    rfl

/-- R149: for one message and one length `Verify` answers Match for at most one checksum. -/
theorem checksum_unique_of_verdictOf {msg : List Byte} {c c' : List Bool} (hmax : c.length ≤ 256)
    (hlen : c'.length = c.length) (h : verdictOf msg c = true) (h' : verdictOf msg c' = true) : c' = c := by
  rw [verdictOf_eq_true_iff msg hmax] at h
  rw [verdictOf_eq_true_iff msg (hlen.trans_le hmax), hlen] at h'
  apply List.ext_getElem hlen
  intro n hn' hn
  rw [← List.getD_eq_getElem c' false hn', ← List.getD_eq_getElem c false hn, h' n hn, h n hn]

/-- Settles O45: the flipped bit is a checksum bit and no entropy bit (R125), so the second checksum is another one for
the same message. -/
theorem flippedLastBitIsAMismatch : Obligations.FlippedLastBitIsAMismatch := by
  intro s ws x hinv hs hfresh hthree hlong hfit
  have hmax := hinv.build.2
  obtain ⟨q, hq⟩ : ∃ q, ws.length + 1 = 3 * q := Nat.dvd_of_mod_eq_zero hthree
  have hlow : q ≤ 11 := by omega
  obtain ⟨-, hcs⟩ := splitRegs_last_counts hmax hfit hq x
  obtain ⟨-, hcs'⟩ := splitRegs_last_counts hmax hfit hq (x ^^^ 1)
  have hentropy := (entropyBytes_splitRegs_last_iff hmax hfit hq (x ^^^ 1) x).mpr fun b hb => by
    have hb0 : b ≠ 0 := by omega
    simp [hb0]
  refine ⟨_, _, sendCommands_push_last_split hinv hs hfresh hthree hfit x,
    sendCommands_push_last_split hinv hs hfresh hthree hfit (x ^^^ 1), hentropy, fun hmatch => ?_⟩
  rw [← Bool.not_eq_true]
  intro hmatch'
  have hsame := checksum_unique_of_verdictOf (by rw [checksumBits_length, hcs]; omega)
    (by rw [checksumBits_length, checksumBits_length, hcs, hcs']) hmatch (hentropy ▸ hmatch')
  have hbit := (checksumBits_splitRegs_last_iff hmax hfit hq hlow (x ^^^ 1) x).mp hsame 0 (by omega)
  simp at hbit

end Sys2Proof.Machine
end

section
/-! SUPPORT. Session control and status (43_control.md): NOP (R161), CLEAR (R162, R163), RDSTAT (R164) and RDINFO
(R165). -/

namespace Sys2Proof.Machine

open Sys2Proof

/-- R73, R74: a word whose opcode field is `op`, and which is not the word of a command of that opcode, is ILLEGAL. -/
theorem illegal_of_opField {w : Word} {op : BitVec 5} (hw : opField w = op)
    (hnone : ∀ i : Instr, i.mnemonic.opcode = op → encode i ≠ w) : ∃ e, decode w = .illegal e := by
  cases hd : decode w with
  | illegal e => exact ⟨e, rfl⟩
  | command i =>
    obtain ⟨hop, -⟩ := fields_of_decode hd
    exact absurd (decode_eq_command_iff.mp hd) (hnone i (hop.symm.trans hw))

/-- R161: the words of opcode 0x00 but 0x0000 itself are ILLEGAL. -/
theorem illegal_of_nop_opcode {w : Word} (hmin : 0x0001 ≤ w.toNat) (hmax : w.toNat ≤ 0x07FF) :
    ∃ e, decode w = .illegal e := by
  have hw : opField w = 0x00 := by
    apply BitVec.eq_of_toNat_eq
    rw [opField, BitVec.extractLsb'_toNat, Nat.shiftRight_eq_div_pow, Nat.div_eq_of_lt (by omega)]
    rfl
  refine illegal_of_opField hw ?_
  rintro i hop rfl
  cases i with
  | nop => exact absurd hmin (by decide)
  | _ => simp [Instr.mnemonic, Mnemonic.opcode] at hop

/-- Settles O10: NOP only answers; of its opcode the word 0x0000 alone is a command. -/
theorem nopEffect : Obligations.NopEffect :=
  ⟨by decide, fun _ => rfl, fun _ => illegal_of_nop_opcode⟩

/-- R162, R163, R186: CLEAR in VWAIT is rejected. -/
theorem exec_clear_of_vwait {s : State} (hst : s.regs.st = .vwait) : exec .clear s = .next (s.reject .badState) :=
  if_pos hst

/-- R162: CLEAR in every other state starts an empty session. -/
theorem exec_clear_of_not_vwait {s : State} (hst : s.regs.st ≠ .vwait) :
    exec .clear s = .next (s.clearSession.respond true 0) :=
  if_neg hst

/-- R187: outside COLLECT and SPLIT a command writes a register only if it is a CLEAR that succeeds. -/
theorem CommandEffect.regs_eq_of_no_writer {i : Instr} {s t : State} (h : CommandEffect s i t)
    (hcollect : s.regs.st ≠ .collect) (hsplit : s.regs.st ≠ .split) (hclear : i = .clear → s.regs.st = .vwait) :
    t.regs = s.regs := by
  cases h with
  | answered => rfl
  | cleared hst => exact absurd (hclear rfl) hst
  | overflowed _ hst | packed _ hst | badLength hst | splitDone hst => exact absurd hst hcollect
  | requested hst => exact absurd hst hsplit

/-- Settles O11: case by case of CLEAR; in ERROR no other command writes a register. -/
theorem clearEffect : Obligations.ClearEffect := by
  refine ⟨by decide, fun s => exec_clear_of_vwait, fun s => exec_clear_of_not_vwait, fun i s t hst h hleft => ?_⟩
  by_contra hclear
  have hregs : t.regs = s.regs :=
    (exec_effect h).regs_eq_of_no_writer (by simp [hst]) (by simp [hst]) fun hi => absurd hi hclear
  exact hleft (hregs ▸ hst)

/-- Settles O34: a sound state has a request on its way exactly in VWAIT, before the step and after it, and of the
model's cases of a register change VWAIT leaves the answer taken. -/
theorem outstandingRequestEndsByAnswerOrReset : Obligations.OutstandingRequestEndsByAnswerOrReset := by
  refine ⟨fun s t hinv h hok => ?_, fun s t hinv hst h hres => ?_⟩
  · by_cases hst : s.regs.st = .vwait
    · cases (exec_clear_of_vwait hst).symm.trans h
      simp at hok
    · cases (exec_clear_of_not_vwait hst).symm.trans h
      exact hinv.channels.one.trans (if_neg hst)
  · have hone : t.inFlight = if t.regs.st = .vwait then 1 else 0 := ((step_effect h).keeps_inv hinv).channels.one
    have hkept (hregs : t.regs = s.regs) : t.inFlight = 1 ∧ t.regs = s.regs := by simp [hone, hregs, hst]
    rcases step_regs_cases h with hregs | hreset | ⟨hm, -, v, hregs⟩ | ⟨i, -, he⟩
    · exact .inl (hkept hregs)
    · exact absurd hreset hres
    · have hdone : t.regs.st = .done := by rw [hregs]
      exact .inr ⟨by simp [hone, hdone], hm, hdone⟩
    · exact .inl (hkept ((exec_effect he).regs_eq_of_no_writer (by simp [hst]) (by simp [hst]) fun _ => hst))

section StatusWord
variable (r : Regs)

/-- R31: bits 6:4 of the status word are `ERR`. -/
theorem statusWord_err : (statusWord r).extractLsb' 4 3 = r.err.code := by
  rw [statusWord, BitVec.extractLsb'_append_eq_of_le (by decide), BitVec.extractLsb'_append_eq_of_le (by decide)]
  exact BitVec.extractLsb'_append_eq_right

/-- R31: bits 9:8 of the status word are `VERDICT`. -/
theorem statusWord_verdict : (statusWord r).extractLsb' 8 2 = r.verdict.code := by
  rw [statusWord, BitVec.extractLsb'_append_eq_of_le (by decide), BitVec.extractLsb'_append_eq_of_le (by decide),
    BitVec.extractLsb'_append_eq_of_le (by decide), BitVec.extractLsb'_append_eq_of_le (by decide)]
  exact BitVec.extractLsb'_append_eq_right

/-- R31: bits 3, 7 and 15:10 of the status word are 0. -/
theorem statusWord_zeros : (statusWord r).getLsbD 3 = false ∧ (statusWord r).getLsbD 7 = false ∧
    (statusWord r).extractLsb' 10 6 = 0 := by
  refine ⟨?_, ?_, ?_⟩
  · rw [statusWord, BitVec.getLsbD_append, if_neg (by decide), BitVec.getLsbD_append, if_pos (by decide)]
    rfl
  · rw [statusWord, BitVec.getLsbD_append, if_neg (by decide), BitVec.getLsbD_append, if_neg (by decide),
      BitVec.getLsbD_append, if_neg (by decide), BitVec.getLsbD_append, if_pos (by decide)]
    rfl
  · rw [statusWord, BitVec.extractLsb'_append_eq_of_le (by decide), BitVec.extractLsb'_append_eq_of_le (by decide),
      BitVec.extractLsb'_append_eq_of_le (by decide), BitVec.extractLsb'_append_eq_of_le (by decide)]
    exact BitVec.extractLsb'_append_eq_left

/-- R31: the status word from the values of its three registers. -/
theorem statusWord_of_fields {r : Regs} {v : Session} {e : ErrCode} {d : Verdict} (hst : r.st = v) (herr : r.err = e)
    (hverdict : r.verdict = d) : statusWord r = statusWord { Regs.reset 0 with st := v, err := e, verdict := d } := by
  simp only [statusWord, hst, herr, hverdict]

end StatusWord

section SoundRegisters
variable {n : Nat} {r : Regs}

/-- R33.3, R33.4: there is a verdict only in DONE. -/
theorem Regs.Sound.verdict_eq_none (h : r.Sound n) (hst : r.st ≠ .done) : r.verdict = .none := by
  by_cases herror : r.st = .error
  · exact (h.errorCode herror).2
  · exact not_not.mp fun hverdict => hst ((h.verdictDone herror).mp hverdict)

/-- R33.2: there is no error code once the session is split. -/
theorem Regs.Sound.err_eq_none (h : r.Sound n) (hst : r.st = .split ∨ r.st = .vwait ∨ r.st = .done) :
    r.err = .none := by
  obtain ⟨-, -, -, -, herr⟩ := h.splitDone hst
  exact herr

/-- R33.1, R33.2, R33.5: KEYBITS and CSBITS are 0 until a split, and after OVERFLOW. -/
theorem Regs.Sound.counts_eq_zero (h : r.Sound n) (hwhen : r.st = .collect ∨ r.err = .fatal .overflow) :
    r.keybits = 0 ∧ r.csbits = 0 := by
  by_cases hcollect : r.st = .collect
  · obtain ⟨hkey, hcs, -⟩ := h.collecting hcollect
    exact ⟨hkey, hcs⟩
  · have herr : r.err = .fatal .overflow := hwhen.resolve_left hcollect
    cases hst : r.st with
    | collect => exact absurd hst hcollect
    | split | vwait | done => simp [h.err_eq_none (by simp [hst])] at herr
    | error =>
      obtain ⟨-, hkey, hcs⟩ := h.overflowed hst herr
      exact ⟨hkey, hcs⟩

end SoundRegisters

/-- Settles O16: the fields of the status word, and their values in a sound session. -/
theorem rdstatEffect : Obligations.RdstatEffect := by
  refine ⟨by decide, fun s => ?_⟩
  obtain ⟨hbit3, hbit7, hhigh⟩ := statusWord_zeros s.regs
  refine ⟨statusWord s.regs, rfl, statusWord_stateField s.regs true, ?_, statusWord_verdict s.regs, hbit3, hbit7,
    hhigh, fun hinv hst => ?_, fun hinv hst hverdict => ?_, fun hinv hst hverdict => ?_, fun hinv hst => ?_,
    fun hinv hst herr => ?_, fun hinv hst herr => ?_⟩
  · rw [statusWord_err]
    cases s.regs.err with
    | none => rfl
    | fatal c => cases c <;> rfl
  · exact statusWord_of_fields hst (hinv.regs.err_eq_none (by simp [hst])) (hinv.regs.verdict_eq_none (by simp [hst]))
  · exact statusWord_of_fields hst (hinv.regs.err_eq_none (by simp [hst])) hverdict
  · exact statusWord_of_fields hst (hinv.regs.err_eq_none (by simp [hst])) hverdict
  · obtain ⟨-, -, herr, hverdict⟩ := hinv.regs.collecting hst
    exact statusWord_of_fields hst herr hverdict
  · exact statusWord_of_fields hst herr (hinv.regs.verdict_eq_none (by simp [hst]))
  · exact statusWord_of_fields hst herr (hinv.regs.verdict_eq_none (by simp [hst]))

/-- R165: a word of RDINFO's opcode with one of `cmd[10:2]` set is ILLEGAL. -/
theorem illegal_of_rdinfo_mbz {w : Word} (hrow : w &&& 0xF800 = 0x3000) (hmbz : w &&& 0x07FC ≠ 0) :
    ∃ e, decode w = .illegal e := by
  have hword : Mnemonic.rdinfo.opcode ++ opndField w = w := eq_append_of_and_opMask .rdinfo (by decide) hrow
  have hw : opField w = 0x06 := by rw [← hword, opField_append]; rfl
  refine illegal_of_opField hw ?_
  rintro i hop rfl
  cases i with
  | rdinfo sel => exact hmbz (by cases sel <;> decide)
  | _ => simp [Instr.mnemonic, Mnemonic.opcode] at hop

/-- R165: `11 * WCOUNT` fits a response. -/
theorem infoValue_totalBits_toNat (r : Regs) : (infoValue r .totalBits).toNat = 11 * r.wcount.toNat := by
  have hcount : r.wcount.toNat < 2 ^ 10 := r.wcount.isLt
  exact Nat.mod_eq_of_lt (by simp only [totalBits]; omega)

/-- Settles O17: selector by selector, each count fits the 16 bits of a response. -/
theorem rdinfoEffect : Obligations.RdinfoEffect := by
  refine ⟨by decide, fun s sel => ⟨infoValue s.regs sel, rfl, ?_, fun hinv hwhen hsel => ?_⟩,
    fun _ => illegal_of_rdinfo_mbz⟩
  · cases sel with
    | totalBits => exact infoValue_totalBits_toNat s.regs
    | wordCount | keyBits | checkSumBits => exact BitVec.toNat_setWidth_of_le (by decide)
  · obtain ⟨hkey, hcs⟩ := hinv.regs.counts_eq_zero hwhen
    rcases hsel with rfl | rfl
    · simp [infoValue, hkey]
    · simp [infoValue, hcs]

end Sys2Proof.Machine
end

section
/-! SUPPORT. Result codes and errors (60_exceptions.md): every step answers (R180), the code of every command in every
state (R185, R187, R189), rejects (R186), the fatal entry (R188) and the state ERROR (R190). -/

namespace Sys2Proof.Machine

open Sys2Proof

/-- Settles O8: a performed command answers a next state, and so does every other move. -/
theorem everyStepAnswersANextState : Obligations.EveryStepAnswersANextState := by
  intro s
  cases ha : nextAction s with
  | settle t => exact ⟨t, congrArg Action.outcome ha⟩
  | run i u =>
    obtain ⟨t, ht, -⟩ := exec_total i u
    exact ⟨t, (congrArg Action.outcome ha).trans ht⟩

/-- R122, R187: RDBYTE is legal exactly where the split is readable. -/
@[simp] theorem badStateEntry_rdbyte (k : Opnd) (v : Session) : badStateEntry (.rdbyte k) v = !v.readable := by
  cases v <;> rfl

/-- R123, R187: RDCS is legal where RDBYTE is. -/
@[simp] theorem badStateEntry_rdcs (j : Opnd) (v : Session) : badStateEntry (.rdcs j) v = !v.readable :=
  badStateEntry_rdbyte j v

/-- R187: where the table of legality says 2, the command is rejected with BAD_STATE. -/
theorem exec_of_badStateEntry {i : Instr} {s : State} (hbad : badStateEntry i s.regs.st = true) :
    exec i s = .next (s.reject .badState) := by
  cases i with
  | nop | rdstat | rdinfo => cases hbad
  | clear => exact exec_clear_of_vwait (eq_of_beq hbad)
  | push idx => exact exec_push_of_not_collect (bne_iff_ne.mp hbad) idx
  | split => exact exec_split_of_not_collect (bne_iff_ne.mp hbad)
  | verify => exact exec_verify_of_not_split (bne_iff_ne.mp hbad)
  | rdbyte k => exact exec_rdbyte_of_not_readable (by simpa using hbad)
  | rdcs j => exact exec_rdcs_of_not_readable (by simpa using hbad)

/-- Settles O22: BAD_STATE by the table; a legal command by the cases of its own check. -/
theorem resultCodesByStateThenOwnCheck : Obligations.ResultCodesByStateThenOwnCheck := by
  intro i s
  cases hbad : badStateEntry i s.regs.st with
  | true => exact ⟨_, _, exec_of_badStateEntry hbad, rfl, by simp [RejectCode.code]⟩
  | false =>
    cases i with
    | nop | rdstat | rdinfo => exact ⟨_, _, rfl, rfl, by simp⟩
    | clear => exact ⟨_, _, exec_clear_of_not_vwait (beq_eq_false_iff_ne.mp hbad), rfl, by simp⟩
    | verify => exact ⟨_, _, exec_verify_of_split (bne_eq_false_iff_eq.mp hbad), rfl, by simp⟩
    | push idx =>
      have hst : s.regs.st = .collect := bne_eq_false_iff_eq.mp hbad
      by_cases hfull : s.regs.wcount.toNat = s.maxWords
      · exact ⟨_, _, exec_push_of_full hst hfull idx, rfl, by simp [hfull, FatalCode.code]⟩
      · exact ⟨_, _, exec_push_of_room hst hfull idx, rfl, by simp [hfull]⟩
    | split =>
      have hst : s.regs.st = .collect := bne_eq_false_iff_eq.mp hbad
      by_cases hthree : s.regs.wcount.toNat % 3 = 0
      · exact ⟨_, _, exec_split_of_valid hst (splitKey_mod_of_wcount hthree), rfl, by simp [hthree]⟩
      · exact ⟨_, _, exec_split_of_invalid hst hthree, rfl, by simp [hthree, FatalCode.code]⟩
    | rdbyte k =>
      have hst : s.regs.st.readable = true := by simpa using hbad
      rcases Nat.lt_or_ge k.toNat (entropyLen s.regs) with hlt | hend
      · exact ⟨_, _, exec_rdbyte_of_lt hst hlt, rfl, by simpa [entropyLen] using hlt⟩
      · exact ⟨_, _, exec_rdbyte_of_past_end hst hend, rfl, by simpa [RejectCode.code, entropyLen] using hend⟩
    | rdcs j =>
      have hst : s.regs.st.readable = true := by simpa using hbad
      rcases Nat.lt_or_ge (8 * j.toNat) s.regs.csbits.toNat with hlt | hend
      · exact ⟨_, _, exec_rdcs_of_lt hst hlt, rfl, by simpa using hlt⟩
      · exact ⟨_, _, exec_rdcs_of_past_end hst hend, rfl, by simpa [RejectCode.code] using hend⟩

/-- R74, R186: the step that accepts an ILLEGAL word rejects it. -/
theorem step_of_illegal {s : State} {w : Word} {e : IllegalWord} (hm : s.moves .perform) (hrst : s.rst = false)
    (hcmd : s.cmd = some w) (hd : decode w = .illegal e) : step s = .next (s.begin.accept.reject .illegal) := by
  simp only [step_of_moves hm, moveAction, acceptAction, State.begin_rst, State.begin_cmd, hrst, hcmd, hd,
    Action.outcome]

/-- Settles O23: of a command's effects the writing ones answer OK or a fatal code. -/
theorem rejectChangesNothing : Obligations.RejectChangesNothing := by
  refine ⟨fun i s t d h hrsp hd => ?_, fun s w e ms ha hrst hcmd hill => ?_⟩
  · cases exec_effect h with
    | answered _ ok d' =>
      cases hrsp
      rfl
    | cleared | packed | splitDone | requested => simp at hrsp
    | overflowed | badLength =>
      cases hrsp
      exact absurd hd (by decide)
  · have hm : s.moves .perform := by simp [State.moves, ha]
    rw [step_of_illegal hm hrst hcmd hill, reject_eq]
    simp [State.begin, State.accept, ha, RejectCode.code]

/-- R185, R188: the fatal errors are the invalid length of SPLIT and the overflow of PUSH, both in COLLECT. -/
theorem exec_fatal_cases {i : Instr} {s t : State} {d : Word} (h : exec i s = .next t)
    (hrsp : t.rsp = some ⟨false, d⟩) (hd : 4 ≤ d.toNat) :
    s.regs.st = .collect ∧
      (d = 4 ∧ t = (s.withRegs (writeCounts s.regs)).fatal .invalidBitLength ∨ d = 5 ∧ t = s.fatal .overflow) := by
  obtain ⟨u, r, hu, hr, hcodes, -, -, hsplit, hpush⟩ := resultCodesByStateThenOwnCheck i s
  cases hu.symm.trans h
  cases hr.symm.trans hrsp
  rcases hcodes rfl with rfl | rfl | rfl | rfl
  · exact absurd hd (by decide)
  · exact absurd hd (by decide)
  · obtain ⟨hlegal, rfl, hthree⟩ := hsplit.mp rfl
    have hst : s.regs.st = .collect := bne_eq_false_iff_eq.mp hlegal
    cases (exec_split_of_invalid hst hthree).symm.trans h
    exact ⟨hst, .inl ⟨rfl, rfl⟩⟩
  · obtain ⟨hlegal, ⟨idx, rfl⟩, hfull⟩ := hpush.mp rfl
    have hst : s.regs.st = .collect := bne_eq_false_iff_eq.mp hlegal
    cases (exec_push_of_full hst hfull idx).symm.trans h
    exact ⟨hst, .inr ⟨rfl, rfl⟩⟩

/-- R188: in ERROR the fatal entry only answers: the first code is kept. -/
theorem fatal_eq_of_error {s : State} (c : FatalCode) (hst : s.regs.st = .error) :
    s.fatal c = s.respond false (c.code.setWidth 16) := by
  have hregs : s.regs.enterError c = s.regs := by
    rw [Regs.enterError, if_pos hst, ← hst]
  rw [State.fatal, hregs]

/-- Settles O24: the two fatal errors, each with the registers it leaves. -/
theorem fatalErrorEntry : Obligations.FatalErrorEntry := by
  refine ⟨fun i s t d h hrsp hd => ?_, fun s c hst => ?_⟩
  · obtain ⟨hst, hcases⟩ := exec_fatal_cases h hrsp hd
    have hverdict (hinv : s.Inv) : s.regs.verdict = .none := hinv.regs.verdict_eq_none (by simp [hst])
    rcases hcases with ⟨rfl, rfl⟩ | ⟨rfl, rfl⟩
    · refine ⟨.inl rfl, ?_, by simp, fun _ => ?_, hverdict⟩
      · rw [fatal_eq_of_ne_error _ _ (by simp [hst])]
        rfl
      · exact ⟨writeCounts_csbits_toNat s.regs, writeCounts_keybits_toNat s.regs⟩
    · refine ⟨.inr rfl, ?_, fun _ => ⟨rfl, rfl⟩, by simp, hverdict⟩
      rw [fatal_eq_of_ne_error _ _ (by simp [hst])]
      rfl
  · rw [fatal_eq_of_error c hst]
    cases c <;> rfl

/-- R187, R190: in ERROR every command but NOP, RDSTAT, RDINFO and CLEAR is BAD_STATE. -/
theorem badStateEntry_error {i : Instr} (hnop : i ≠ .nop) (hstat : i ≠ .rdstat) (hinfo : ∀ sel, i ≠ .rdinfo sel)
    (hclear : i ≠ .clear) : badStateEntry i .error = true := by
  cases i with
  | nop => exact absurd rfl hnop
  | rdstat => exact absurd rfl hstat
  | rdinfo sel => exact absurd rfl (hinfo sel)
  | clear => exact absurd rfl hclear
  | push | split | verify | rdbyte | rdcs => rfl

/-- A step that performs a command shows the response of that command, performed at the same registers (R41, R58). -/
theorem rsp_of_performs {s t u : State} {i : Instr} (hp : s.performs i) (h : step s = .next t)
    (hu : exec i s.begin.accept = .next u) : t.rsp = u.rsp := by
  cases hu.symm.trans ((step_of_performs hp).symm.trans h)
  rfl

/-- Settles O25: the model's cases of a register change, none of which but CLEAR and reset is open to ERROR, and the
commands' responses in ERROR. -/
theorem errorIsSticky : Obligations.ErrorIsSticky := by
  intro s t hst h
  refine ⟨fun hclear hres => ?_, ?_, fun hp => rsp_of_performs hp h rfl, fun sel hp => rsp_of_performs hp h rfl,
    fun i hp hnop hstat hinfo hclear => ?_⟩
  · rcases step_regs_cases h with hsame | hreset | ⟨-, hvwait, -⟩ | ⟨i, hp, he⟩
    · exact hsame
    · exact absurd hreset hres
    · simp [hst] at hvwait
    · exact (exec_effect he).regs_eq_of_no_writer (by simp [hst]) (by simp [hst]) fun hi => absurd (hi ▸ hp) hclear
  · rintro (hp | hp)
    · exact rsp_of_performs hp h rfl
    · exact rsp_of_performs hp h (exec_clear_of_not_vwait (by simp [hst]))
  · have hbad : badStateEntry i s.regs.st = true := hst ▸ badStateEntry_error hnop hstat hinfo hclear
    exact rsp_of_performs hp h (exec_of_badStateEntry hbad)

end Sys2Proof.Machine
end
